-- ==== Sys2Proof/Word.lean ====
section
/-! DEFINITION. The word types of the SPI bit-bang master engine (spec/00_scope.md R6 to R8). -/

namespace Sys2Proof

/-- A byte: `tx_byte`, `rx_byte`, every buffer element (R6). -/
abbrev Byte := BitVec 8

/-- A pin identifier, `PIN_W = 8` bits (R6, D7). -/
abbrev Pin := BitVec 8

/-- A level or a bit operand: `true` is high, `1`; `false` is low, `0` (R8). -/
abbrev Level := Bool

/-- The `length` operand and the byte index, `LEN_W = 32` bits, unsigned (R6, D8). -/
abbrev Len := BitVec 32

/-- The command word `cmd[39:0]` (R80). -/
abbrev CmdWord := BitVec 40

end Sys2Proof
end

