-- ==== Sys2Proof/Config.lean ====
section
/-! DEFINITION. The build parameters of the hardware (spec/00_scope.md R6) and the free values: what the spec
leaves open, as constants without a body. -/

namespace Sys2Proof

/-- The default of `BUF_ALIAS`, which is the build `State.reset` describes: two buffers (R6, R69, D14). -/
def Config.bufAlias : Bool := false

/-- What the builder of the hardware and of its platform fixes before a run (R6, R32, R194): a parameter of the
machine, carried beside its state so that every statement about all states ranges over all builds (log 2). -/
structure Build where
  /-- `SPI_MAX_BUFFER_SIZE`, constrained to `0 .. 2^32 - 2` (R6, D8): the bound is the type. -/
  maxBufferSize : Fin 4294967295
  /-- `BUF_ALIAS`: whether `TX` and `RX` name one array, open with the default `false` (R6, R69, D14). -/
  bufAlias : Bool := Config.bufAlias
  /-- `VALID_PINS`: bit `p` says whether identifier `p` names a real pin (R6). -/
  validPins : BitVec 256
  deriving DecidableEq, Repr

/-- `MAX`, the number of bytes of each buffer (R32, R35). -/
def Build.max (b : Build) : Nat := b.maxBufferSize.val

/-- Whether an identifier names a pin of the platform (R6, R197). -/
def Build.isValid (b : Build) (p : Pin) : Bool := b.validPins.getLsbD p.toNat

/-- `SPI_MAX_BUFFER_SIZE` of the machine that `State.reset` describes. DESIGN CHOICE (log 2), safe: OPEN in the
spec (R6, R194), so no number is chosen. -/
opaque Config.maxBufferSize : Fin 4294967295

/-- `VALID_PINS` of the machine that `State.reset` describes. DESIGN CHOICE (log 2), safe: OPEN in the spec (R6). -/
opaque Config.validPins : BitVec 256

/-- The level of the n-th free draw: a read of MISO whose source no input fixes (R34, D22), or one that hangs on a
pin level the spec calls undefined (R196, U1). DESIGN CHOICE (log 1), safe: nothing constrains it. -/
opaque Config.freeLevel : Nat → Level

/-- The level of a pin that nothing has driven yet, by pin number: unspecified (R33, R37). DESIGN CHOICE (log 4), safe. -/
opaque Config.powerUpLevel : Nat → Level

/-- A byte of `TX` that nothing has written yet, by index: unspecified (R35, R37). DESIGN CHOICE (log 4), safe. -/
opaque Config.powerUpTx : Nat → Byte

/-- A byte of `RX` that nothing has written yet, by index: unspecified (R35, R37). DESIGN CHOICE (log 4), safe. -/
opaque Config.powerUpRx : Nat → Byte

end Sys2Proof
end

