-- ==== Sys2Proof/Syntax.lean ====
section
/-! DEFINITION. The five commands of the engine (spec/30_encoding.md R88, opcode_table.json) and what the decoder answers. -/

namespace Sys2Proof

/-- One command, one constructor per row of spec/opcode_table.json, the operands in the document's order (R82, R86). -/
inductive Instr where
  /-- `initialize`: the four pin identifiers of the Configuration (R100). -/
  | init (mosi miso sck ss : Pin)
  /-- `transmit_bit`: the bit to send (R110). -/
  | txbit (bit : Level)
  /-- `receive_bit`: no operand (R111). -/
  | rxbit
  /-- `transfer_byte`: the byte to send (R130). -/
  | xfer (txByte : Byte)
  /-- `transaction`: the number of bytes (R140). -/
  | trans (length : Len)
  deriving DecidableEq, Repr

/-- Why a word is a reserved encoding, one name for each item of R84. -/
inductive Reserved where
  /-- `opc` is `0x00` or `0x06` to `0xFF` (R81). -/
  | opcode (opc : Byte)
  /-- `opc = 0x02` and `cmd[31:1]` is not zero. -/
  | txbitOperand
  /-- `opc = 0x03` and `cmd[31:0]` is not zero. -/
  | rxbitOperand
  /-- `opc = 0x04` and `cmd[31:8]` is not zero. -/
  | xferOperand
  deriving DecidableEq, Repr

/-- The decoder's answer: a command, or `Invalid` with its reason (R85). -/
inductive Decoded where
  | command (i : Instr)
  | invalid (why : Reserved)
  deriving DecidableEq, Repr

end Sys2Proof
end

