-- ==== Sys2Proof/WellFormed.lean ====
section
/-! DEFINITION. What makes a command word well formed (spec/30_encoding.md R82, R84) and what the contract asks of a
command's operands (spec/40_context_init.md R102). -/

namespace Sys2Proof

/-- One row of the match and mask table of R82. -/
structure Pattern where
  mnemonic : String
  pat : CmdWord
  mask : CmdWord
  deriving DecidableEq, Repr

/-- A word selects the row exactly when `w AND mask = match` (R82). -/
def Pattern.selects (p : Pattern) (w : CmdWord) : Bool := w &&& p.mask == p.pat

/-- The table of R82, row for row. -/
def patterns : List Pattern :=
  [ { mnemonic := "INIT",  pat := 0x0100000000, mask := 0xFF00000000 },
    { mnemonic := "TXBIT", pat := 0x0200000000, mask := 0xFFFFFFFFFE },
    { mnemonic := "RXBIT", pat := 0x0300000000, mask := 0xFFFFFFFFFF },
    { mnemonic := "XFER",  pat := 0x0400000000, mask := 0xFFFFFFFF00 },
    { mnemonic := "TRANS", pat := 0x0500000000, mask := 0xFF00000000 } ]

/-- A word that is no reserved encoding: it matches one of the five patterns (R84). -/
def wordWellFormed (w : CmdWord) : Bool := patterns.any (·.selects w)

/-- The mnemonic of a command's row in spec/opcode_table.json. -/
def Instr.mnemonic : Instr → String
  | .init _ _ _ _ => "INIT"
  | .txbit _ => "TXBIT"
  | .rxbit => "RXBIT"
  | .xfer _ => "XFER"
  | .trans _ => "TRANS"

/-- Whether a command needs a context: every command but INIT (R150, R163). -/
def Instr.needsContext : Instr → Bool
  | .init _ _ _ _ => false
  | .txbit _ => true
  | .rxbit => true
  | .xfer _ => true
  | .trans _ => true

/-- Every term of `Instr` is well formed: each operand has exactly its field's width (R82), and the engine
validates no operand (R102), so there is no further check. -/
def Instr.wellFormed : Instr → Bool
  | .init _ _ _ _ => true
  | .txbit _ => true
  | .rxbit => true
  | .xfer _ => true
  | .trans _ => true

/-- The four pins are pairwise distinct (R21, R196). -/
def pinsDistinct (mosi miso sck ss : Pin) : Bool :=
  mosi != miso && mosi != sck && mosi != ss && miso != sck && miso != ss && sck != ss

/-- The four pins are in `VALID_PINS` (R197). -/
def pinsValid (b : Build) (mosi miso sck ss : Pin) : Bool :=
  b.isValid mosi && b.isValid miso && b.isValid sck && b.isValid ss

/-- What the contract asks of the operands, unchecked by the engine (R102): INIT with distinct, valid pins. -/
def Instr.inContract (b : Build) : Instr → Bool
  | .init mosi miso sck ss => pinsDistinct mosi miso sck ss && pinsValid b mosi miso sck ss
  | .txbit _ => true
  | .rxbit => true
  | .xfer _ => true
  | .trans _ => true

end Sys2Proof
end

