-- ==== Sys2Proof/Decode.lean ====
section
/-! DEFINITION. The decoder and the encoder of the 40-bit command word (spec/30_encoding.md R80 to R85). -/

namespace Sys2Proof

/-- `cmd[39:32]`, the operation code (R80). -/
def opcOf (w : CmdWord) : Byte := w.extractLsb' 32 8

/-- The decoder of R85: total, the last arm refuses by name. -/
def decode (w : CmdWord) : Decoded :=
  if opcOf w = 0x01 then
    .command (.init (w.extractLsb' 0 8) (w.extractLsb' 8 8) (w.extractLsb' 16 8) (w.extractLsb' 24 8))
  else if opcOf w = 0x02 then
    if w.extractLsb' 1 31 = 0 then .command (.txbit (w.getLsbD 0)) else .invalid .txbitOperand
  else if opcOf w = 0x03 then
    if w.extractLsb' 0 32 = 0 then .command .rxbit else .invalid .rxbitOperand
  else if opcOf w = 0x04 then
    if w.extractLsb' 8 24 = 0 then .command (.xfer (w.extractLsb' 0 8)) else .invalid .xferOperand
  else if opcOf w = 0x05 then
    .command (.trans (w.extractLsb' 0 32))
  else
    .invalid (.opcode (opcOf w))

/-- The encoder of R85: `{opc, arg}`, the more significant field first. -/
def encode : Instr → CmdWord
  | .init mosi miso sck ss => 0x01#8 ++ (ss ++ (sck ++ (miso ++ mosi)))
  | .txbit bit => 0x02#8 ++ (BitVec.ofBool bit).setWidth 32
  | .rxbit => 0x03#8 ++ 0#32
  | .xfer txByte => 0x04#8 ++ txByte.setWidth 32
  | .trans length => 0x05#8 ++ length

/-- The command word with bits `w`: the port takes one 40-bit value, not a byte stream (R80), so the table's
numbering is the word's own and every bit above `nbits` is zero. -/
def tableWord (nbits w : Nat) : CmdWord := BitVec.ofNat 40 (w % 2 ^ nbits)

/-- The instruction the decoder reads from a row of spec/opcode_table.json with bits `w`. -/
def decodeTableWord (nbits w : Nat) : Option Instr :=
  match decode (tableWord nbits w) with
  | .command i => some i
  | .invalid _ => none

end Sys2Proof
end

