-- ==== Sys2Proof/Machine/State.lean ====
section
/-! DEFINITION. The state of the engine and of the system it acts on (spec/10_state.md R20 to R37), the reasons a
step can stop, and the state after reset. Plain data throughout. -/

namespace Sys2Proof.Machine

/-- The Configuration: four pin identifiers (R21). -/
structure PinConfig where
  mosi : Pin
  miso : Pin
  sck : Pin
  ss : Pin
  deriving DecidableEq, Repr

/-- The sequencer position, 18 values, each named for the next event (R23). -/
inductive Seq where
  | idle
  | initMosi | initSck | initSs
  | tbSetup | tbRise | tbFall
  | rbRise | rbSample | rbFall
  | xbSetup | xbRise | xbSample | xbFall
  | trSelect | trLoad | trStore | trDeselect
  deriving DecidableEq, Repr

/-- The command in execution (R24). -/
inductive Op where
  | init | txbit | rxbit | xfer | trans
  deriving DecidableEq, Repr

/-- The frame-controller state (R29). -/
inductive Tsm where
  | idle | selected
  deriving DecidableEq, Repr

/-- The response status; the fourth code is never produced (R83, U17). -/
inductive Status where
  | ok | failLength | refused
  deriving DecidableEq, Repr

/-- What decides the level of a MISO read (R34): the three sources of the test vectors, or no source at all. -/
inductive MisoSource where
  /-- One element a read, in order; a read past the end is a free draw (log 1). -/
  | list (levels : List Level)
  /-- Every read returns this level. -/
  | const (level : Level)
  /-- A wire from MOSI: a read returns the level of the MOSI pin. -/
  | loopback
  /-- Nothing is known of the slave: every read is a free draw (D22). -/
  | free
  deriving DecidableEq, Repr

/-- The event alphabet of R10. -/
inductive Event where
  /-- `W(p, l)`. -/
  | pinWrite (p : Pin) (l : Level)
  /-- `R(p) = l`. -/
  | pinRead (p : Pin) (l : Level)
  /-- `TXR(i) = v`. -/
  | txRead (i : Len) (v : Byte)
  /-- `RXW(i, v)`. -/
  | rxWrite (i : Len) (v : Byte)
  deriving DecidableEq, Repr

/-- One move of the world outside the engine (R205), taken from `State.env` in order (log 8). -/
inductive Input where
  /-- The host presents a command word and waits for its response: one whole command (R11, R63). Waits while the engine is busy. -/
  | call (w : CmdWord)
  /-- The host presents a command word and goes on: the acceptance step (R150). Waits while the engine is busy. -/
  | present (w : CmdWord)
  /-- Nobody presents anything for one step: the sequencer alone moves. -/
  | pass
  /-- Reset is asserted and released between two steps (R190, R192). -/
  | reset
  /-- The host writes `TX[i]` (R68). Waits while the engine is busy. -/
  | writeTx (i : Len) (v : Byte)
  /-- The host writes `RX[i]` (R68). Waits while the engine is busy. -/
  | writeRx (i : Len) (v : Byte)
  /-- The MISO source changes, at any time (R34, R86). -/
  | setMiso (source : MisoSource)
  /-- The Pin Interface becomes able or unable to answer, at any time (R89 `pin_ack`, R157.2). -/
  | setPinAck (ack : Bool)
  deriving DecidableEq, Repr

/-- How a run left the contract (R175): the run is marked and no claim about runs inside the contract speaks of it. -/
inductive Mark where
  /-- A reserved encoding was accepted (R84, R163, U5). -/
  | reservedEncoding
  /-- TXBIT, RXBIT, XFER or TRANS was accepted without a context (R163, U4). -/
  | noContext
  /-- INIT was given two equal pins (R102, R196, U1). -/
  | pinsCollide
  /-- INIT was given a pin outside `VALID_PINS` (R102, R197, U2). -/
  | pinNotValid
  /-- A TRANS within bounds was accepted with a byte of `TX[0 .. n-1]` that the host has not written (R175, R199). -/
  | txNotWritten
  deriving DecidableEq, Repr

/-- Why the machine stops. -/
inductive Fault where
  /-- An access to `TX[i]` with `i` not below `SPI_MAX_BUFFER_SIZE`, an address the spec says does not exist (R50, R56).
  Raised by the host's `writeTx` and by `TR_LOAD`, which the engine never reaches so. Safe. -/
  | txIndex (i : Len)
  /-- The same of `RX[i]`. Raised by the host's `writeRx` and by `TR_STORE`. Safe. -/
  | rxIndex (i : Len)
  /-- `XB_FALL` at `bitpos = 0` while `op` is neither XFER nor TRANS: R154 has no row for it and derives that it is
  never reached. Raised by the sequencer. Safe. -/
  | noTransition
  deriving DecidableEq, Repr

/-- Why an instruction has no meaning. -/
inductive Refusal where
  /-- An instruction without a meaning in this model. Raised by no arm: all five have one. Safe. -/
  | notModelled (mnemonic : String)
  deriving DecidableEq, Repr

/-- The complete state (R20), the parameters it is stated for, and the model's own records. -/
structure State where
  /-- The build parameters; written by no step (R32, R194; log 2). -/
  build : Build
  /-- `cfg` (R21). -/
  cfg : PinConfig
  /-- `ctx_valid` (R22). -/
  ctxValid : Bool
  /-- `seq` (R23). -/
  seq : Seq
  /-- `op` (R24). -/
  op : Op
  /-- `bitpos` (R25). -/
  bitpos : BitVec 3
  /-- `txb` (R26). -/
  txb : Byte
  /-- `rxb` (R27). -/
  rxb : Byte
  /-- `idx` (R28). -/
  idx : Len
  /-- `len` (R28). -/
  len : Len
  /-- `tsm` (R29). -/
  tsm : Tsm
  /-- `resp.status` (R30). -/
  respStatus : Status
  /-- `resp.data` (R30). -/
  respData : Byte
  /-- `resp_valid` (R30). -/
  respValid : Bool
  /-- `P`: the level last driven on each pin (R33); a pin nothing has driven is not listed. -/
  pins : List (Nat × Level)
  /-- The MISO source (R34). -/
  misoSource : MisoSource
  /-- `TX` (R35), and the one array where `BUF_ALIAS` holds (R69); a byte nothing has written is not listed. -/
  tx : List Host.Cell
  /-- `RX` (R35) where `BUF_ALIAS` does not hold; a byte nothing has written is not listed. -/
  rx : List Host.Cell
  /-- Whether the Pin Interface completes a request (R89 `pin_ack`, R157.2, U12). -/
  pinAck : Bool
  /-- The moves the outside world has still to make (R205; log 8). -/
  env : List Input
  /-- The model's own: the trace, oldest event first (R10; log 7). -/
  trace : List Event
  /-- The model's own: how many free levels have been drawn (log 1). -/
  draws : Nat
  /-- The model's own: the first contract breach of the run (R175; log 5). -/
  mark : Option Mark
  deriving DecidableEq, Repr

/-- The machine after reset (R37, R190): `seq`, `tsm`, `ctx_valid`, `resp_valid` as the spec gives them; the registers it
leaves unspecified at the values of log 3 (DESIGN CHOICE, unsafe); no pin and no buffer byte known. -/
def State.reset : State where
  build := { maxBufferSize := Config.maxBufferSize, bufAlias := Config.bufAlias, validPins := Config.validPins }
  cfg := { mosi := 0, miso := 0, sck := 0, ss := 0 }
  ctxValid := false
  seq := .idle
  op := .init
  bitpos := 0
  txb := 0
  rxb := 0
  idx := 0
  len := 0
  tsm := .idle
  respStatus := .ok
  respData := 0
  respValid := false
  pins := []
  misoSource := .free
  tx := []
  rx := []
  pinAck := true
  env := []
  trace := []
  draws := 0
  mark := none

end Sys2Proof.Machine
end

