-- ==== Sys2Proof/Machine/Operands.lean ====
section
/-! DEFINITION. The operand forms and the bit arithmetic of the engine (spec/42_byte_engine.md R131, spec/00_scope.md R7, R8). -/

namespace Sys2Proof.Machine

/-- Bit extraction `v[i]` (R131). -/
def bitOf (v : Byte) (i : BitVec 3) : Level := v.getLsbD i.toNat

/-- A level extended with zero bits to a byte: `{0b0000000, l}` (R83, R150). -/
def byteOfLevel (l : Level) : Byte := (BitVec.ofBool l).setWidth 8

/-- Bit insertion `v[i] <- l`: the other seven bits stay (R131). -/
def setBit (v : Byte) (i : BitVec 3) (l : Level) : Byte :=
  (v &&& ~~~(1#8 <<< i.toNat)) ||| (byteOfLevel l <<< i.toNat)

/-- The bounds check's comparison, unsigned (R141). -/
def exceedsMax (b : Build) (length : Len) : Bool := b.max < length.toNat

end Sys2Proof.Machine
end

