-- ==== Sys2Proof/Machine/Flags.lean ====
section
/-! DEFINITION. The response registers: the only flags of the engine (spec/10_state.md R30, spec/30_encoding.md R83). -/

namespace Sys2Proof.Machine

/-- The two-bit code of a status (R83). -/
def Status.code : Status → BitVec 2
  | .ok => 0b00#2
  | .failLength => 0b01#2
  | .refused => 0b10#2

/-- The response word `resp[9:0]`: status in bits 9:8, data in bits 7:0 (R83). -/
def respWord (s : State) : BitVec 10 := s.respStatus.code ++ s.respData

/-- The document's success flag of `transaction` (R30): true for `OK`, false for `FAIL_LENGTH`, none otherwise. -/
def successFlag (s : State) : Option Bool :=
  match s.respStatus with
  | .ok => some true
  | .failLength => some false
  | .refused => none

/-- `respond(status, data)`: posts the response and returns the sequencer to `IDLE` (R83). -/
def respond (status : Status) (data : Byte) (s : State) : State :=
  { s with respStatus := status, respData := data, respValid := true, seq := .idle }

end Sys2Proof.Machine
end

