-- ==== Sys2Proof/Machine/Ops.lean ====
section
/-! DEFINITION. The named operations: sparse memory, the four primitives of spec/00_scope.md R9, the draw of a MISO
level, the one failure and the refusals (spec/60_exceptions.md), what every command shares, and reset. -/

namespace Sys2Proof.Machine

/-! ### Sparse memory: (address, value) pairs, addresses strictly rising -/

/-- The value at an address; an address that is not listed has none. -/
def Memory.read {α : Type} : List (Nat × α) → Nat → Option α
  | [], _ => none
  | (b, v) :: m, a => if b = a then some v else Memory.read m a

/-- Writes a value at an address, keeping the order. -/
def Memory.write {α : Type} : List (Nat × α) → Nat → α → List (Nat × α)
  | [], a, v => [(a, v)]
  | (b, w) :: m, a, v =>
    if a < b then (a, v) :: (b, w) :: m
    else if a = b then (a, v) :: m
    else (b, w) :: Memory.write m a v

/-- The addresses rise strictly. -/
def Memory.rising {α : Type} : List (Nat × α) → Bool
  | [] => true
  | c :: m => m.all (fun d => c.1 < d.1) && Memory.rising m

/-- Every address below `n` is listed. -/
def Memory.filled {α : Type} (m : List (Nat × α)) : Nat → Bool
  | 0 => true
  | n + 1 => (Memory.read m n).isSome && Memory.filled m n

/-- The canonical form over the addresses `0 .. size - 1`; an unlisted address reads as no value, which no entry holds. -/
def Memory.wf {α : Type} (size : Nat) (m : List (Nat × α)) : Bool :=
  Memory.rising m && m.all (fun c => c.1 < size)

/-! ### The PIN space -/

/-- Appends an event to the trace (R10). -/
def emit (e : Event) (s : State) : State := { s with trace := s.trace ++ [e] }

/-- `PinWrite(p, l)`: `P[p] <- l` and the event `W(p, l)`, whatever level the pin had (R51). -/
def pinWrite (p : Pin) (l : Level) (s : State) : State :=
  emit (.pinWrite p l) { s with pins := Memory.write s.pins p.toNat l }

/-- Whether the levels of the pins mean what the contract says (R196, R197): no context yet, or distinct valid pins. -/
def pinsDefined (s : State) : Bool :=
  !s.ctxValid ||
    (pinsDistinct s.cfg.mosi s.cfg.miso s.cfg.sck s.cfg.ss && pinsValid s.build s.cfg.mosi s.cfg.miso s.cfg.sck s.cfg.ss)

/-- The level on the wire of a pin that is not MISO: its last-set level (R33, R52), the free power-up level where nothing
has set it (R37), and no defined level at all where pins collide or do not exist (U1, U2; log 6). -/
def wireLevel (p : Pin) (s : State) : Option Level :=
  if pinsDefined s && s.build.isValid p then
    some ((Memory.read s.pins p.toNat).getD (Config.powerUpLevel p.toNat))
  else none

/-- A level together with what reading it leaves of the MISO source and of the free draws. -/
structure Sample where
  level : Level
  source : MisoSource
  draws : Nat
  deriving DecidableEq, Repr

/-- A level nothing constrains; the counter moves on, so that the next one is another (D22; log 1). -/
def freeSample (source : MisoSource) (s : State) : Sample :=
  { level := Config.freeLevel s.draws, source := source, draws := s.draws + 1 }

/-- The level a read of the MISO pin returns now (R34). -/
def sampleMiso (s : State) : Sample :=
  match s.misoSource with
  | .list (l :: ls) => { level := l, source := .list ls, draws := s.draws }
  | .list [] => freeSample (.list []) s
  | .const l => { level := l, source := .const l, draws := s.draws }
  | .loopback =>
    match wireLevel s.cfg.mosi s with
    | some l => { level := l, source := .loopback, draws := s.draws }
    | none => freeSample .loopback s
  | .free => freeSample .free s

/-- `PinRead(cfg.miso)`, the one pin read the engine performs (R54): the draw of R34, and the state with the event
`R(cfg.miso) = l`; `P` does not change (R52). -/
def readMiso (s : State) : Level × State :=
  let d := sampleMiso s
  (d.level, emit (.pinRead s.cfg.miso d.level) { s with misoSource := d.source, draws := d.draws })

/-- Whether a pin is the MISO pin: of the context, so no pin is while there is none. DEDUCED (log 21): after reset `cfg` is
unspecified (R37) and no Context exists (R22). -/
def isMiso (p : Pin) (s : State) : Bool := s.ctxValid && p == s.cfg.miso

/-- What fixes the level seen on the MISO pin outside the engine's own reads, if anything does: a constant source or the
wire from MOSI. DESIGN CHOICE (log 21): the next element of a list is the engine's next read, not the look's. -/
def misoLook (s : State) : Option Level :=
  match s.misoSource with
  | .list _ => none
  | .const l => some l
  | .loopback => wireLevel s.cfg.mosi s
  | .free => none

/-- What a host or a test bench sees on a pin at a moment between two steps, without an event of the engine (R52, R171,
R205): on a pin that is not MISO the level of the wire; `draw` is the level the outside world shows where the state fixes
none. DESIGN CHOICE (log 21): the spec relates no look at MISO to the engine's reads, so `draw` is tied to none of them,
and a look changes nothing. -/
def inspectPin (p : Pin) (draw : Level) (s : State) : Level :=
  (if isMiso p s then misoLook s else wireLevel p s).getD draw

/-! ### The TX and RX spaces -/

/-- The byte `TX[i]` holds; a byte nothing has written is a free value (R37; log 4). -/
def txByte (i : Len) (s : State) : Byte :=
  (Memory.read s.tx i.toNat).getD (Config.powerUpTx i.toNat)

/-- The byte `RX[i]` holds: with `BUF_ALIAS` it is `TX[i]` (R69). -/
def rxByte (i : Len) (s : State) : Byte :=
  if s.build.bufAlias then txByte i s
  else (Memory.read s.rx i.toNat).getD (Config.powerUpRx i.toNat)

/-- `TX[i] <- v`. -/
def putTx (i : Len) (v : Byte) (s : State) : State := { s with tx := Memory.write s.tx i.toNat v }

/-- `RX[i] <- v`: with `BUF_ALIAS` it is the byte `TX[i]` (R69). -/
def putRx (i : Len) (v : Byte) (s : State) : State :=
  if s.build.bufAlias then putTx i v s
  else { s with rx := Memory.write s.rx i.toNat v }

/-- `MemRead(TX, i, 1)`: the byte and the event `TXR(i) = v` (R56). -/
def memReadTx (i : Len) (s : State) : Byte × State := (txByte i s, emit (.txRead i (txByte i s)) s)

/-- `MemWrite(RX, i, 1, v)`: the store and the event `RXW(i, v)` (R56). -/
def memWriteRx (i : Len) (v : Byte) (s : State) : State := emit (.rxWrite i v) (putRx i v s)

/-- Whether an index names a byte of the buffers (R50). -/
def inBuffer (i : Len) (s : State) : Bool := i.toNat < s.build.max

/-- Whether the host has a read of a buffer byte: only while `seq = IDLE` (R68, R199, D21), and inside the buffer (R50). -/
def hostMayRead (i : Len) (s : State) : Bool := s.seq == .idle && inBuffer i s

/-- The host reads `TX[i]` (R68); it has no such read while the engine is busy, and none outside the buffer. -/
def hostReadTx (i : Len) (s : State) : Option Byte := if hostMayRead i s then some (txByte i s) else none

/-- The host reads `RX[i]` (R68); it has no such read while the engine is busy, and none outside the buffer. -/
def hostReadRx (i : Len) (s : State) : Option Byte := if hostMayRead i s then some (rxByte i s) else none

/-! ### The failure and the refusals: what stands where a processor takes an exception -/

/-- `raise LengthFailure`: the response, and nothing else (R160, R161). -/
def lengthFailure (s : State) : State := respond .failLength 0x00 s

/-- The run's mark once a breach has happened: the first one stays (R175; log 5). -/
def markWith (m : Mark) (s : State) : Option Mark := some (s.mark.getD m)

/-- `refuse`: the hardware's answer `REFUSED`, no pin, no buffer, no other register (R163), and the run is marked (R175). -/
def refuse (m : Mark) (s : State) : State := respond .refused 0x00 { s with mark := markWith m s }

/-! ### What every command shares -/

/-- The first write of every acceptance step: `resp_valid <- 0` (R150). -/
def clearResp (s : State) : State := { s with respValid := false }

/-- The context check of every command but INIT (R150, R163): refuse without a context, else start. -/
def withContext (start : State → State) (s : State) : State :=
  if s.ctxValid then start (clearResp s) else refuse .noContext (clearResp s)

/-- A whole command from its acceptance step and its events (R11, R63): a busy engine does not accept it (R150, D20); a
command answered at acceptance is over; one whose first pin request nobody answers waits there (R157.2; log 9). -/
def wholeCommand (accept run : State → State) (s : State) : Host.Outcome State Fault Refusal :=
  if s.seq = .idle then
    if (accept s).seq = .idle then .next (accept s)
    else if s.pinAck then .next (run (accept s))
    else .next (accept s)
  else .next s

/-- Reset (R190, R191): the engine's registers, no pin, no buffer, no event; the registers the spec leaves unspecified
take the values of `State.reset` (log 3, log 13). -/
def resetEngine (s : State) : State :=
  { s with
    cfg := State.reset.cfg, ctxValid := false, seq := .idle, op := State.reset.op, bitpos := State.reset.bitpos,
    txb := State.reset.txb, rxb := State.reset.rxb, idx := State.reset.idx, len := State.reset.len, tsm := .idle,
    respStatus := State.reset.respStatus, respData := State.reset.respData, respValid := false }

end Sys2Proof.Machine
end

