-- ==== Sys2Proof/Machine/Context.lean ====
section
/-! DEFINITION. Family 1, Context and Configuration: INIT (spec/40_context_init.md). -/

namespace Sys2Proof.Machine

/-- The mark INIT leaves: none more where the four pins are distinct and valid (R102; log 6). -/
def initMark (mosi miso sck ss : Pin) (s : State) : Option Mark :=
  if pinsDistinct mosi miso sck ss then
    if pinsValid s.build mosi miso sck ss then s.mark else markWith .pinNotValid s
  else markWith .pinsCollide s

/-- The acceptance step of INIT: all four identifiers at once, needing no context (R100, R150). -/
def acceptInit (mosi miso sck ss : Pin) (s : State) : State :=
  { clearResp s with
    cfg := { mosi := mosi, miso := miso, sck := sck, ss := ss }, ctxValid := true, tsm := .idle, op := .init,
    seq := .initMosi, mark := initMark mosi miso sck ss s }

/-- The events of INIT: MOSI low, SCK low, SS high (R100, D5). -/
def runInit (s : State) : State :=
  respond .ok 0x00 (pinWrite s.cfg.ss true (pinWrite s.cfg.sck false (pinWrite s.cfg.mosi false s)))

/-- INIT (R100, R101, R102). -/
def execInit (mosi miso sck ss : Pin) (s : State) : Host.Outcome State Fault Refusal :=
  wholeCommand (acceptInit mosi miso sck ss) runInit s

end Sys2Proof.Machine
end

