-- ==== Sys2Proof/Machine/BitEngine.lean ====
section
/-! DEFINITION. Family 2, the Bit Engine: TXBIT, RXBIT and the fused bit cycle (spec/41_bit_engine.md). -/

namespace Sys2Proof.Machine

/-- The acceptance step of TXBIT (R150). -/
def acceptTxbit (bit : Level) (s : State) : State :=
  withContext (fun s => { s with op := .txbit, txb := byteOfLevel bit, seq := .tbSetup }) s

/-- The events of TXBIT: set-up, rising edge, falling edge (R110). -/
def runTxbit (bit : Level) (s : State) : State :=
  respond .ok 0x00 (pinWrite s.cfg.sck false (pinWrite s.cfg.sck true (pinWrite s.cfg.mosi bit s)))

/-- TXBIT (R110). -/
def execTxbit (bit : Level) (s : State) : Host.Outcome State Fault Refusal :=
  wholeCommand (acceptTxbit bit) (runTxbit bit) s

/-- The acceptance step of RXBIT (R150). -/
def acceptRxbit (s : State) : State :=
  withContext (fun s => { s with op := .rxbit, rxb := 0x00, seq := .rbRise }) s

/-- The events of RXBIT: rising edge, sample, falling edge (R111). -/
def runRxbit (s : State) : State :=
  let d := readMiso (pinWrite s.cfg.sck true s)
  let t := pinWrite s.cfg.sck false { d.2 with rxb := setBit d.2.rxb 0 d.1 }
  respond .ok (byteOfLevel d.1) t

/-- RXBIT (R111). -/
def execRxbit (s : State) : Host.Outcome State Fault Refusal :=
  wholeCommand acceptRxbit runRxbit s

/-- `XBIT(b) -> l`, the fused bit cycle: set-up, the one rising edge, the sample, the falling edge (R112). -/
def xbit (b : Level) (s : State) : Level × State :=
  let d := readMiso (pinWrite s.cfg.sck true (pinWrite s.cfg.mosi b s))
  (d.1, pinWrite s.cfg.sck false d.2)

end Sys2Proof.Machine
end

