-- ==== Sys2Proof/Machine/ByteEngine.lean ====
section
/-! DEFINITION. Family 3, the Byte Engine: XFER (spec/42_byte_engine.md). -/

namespace Sys2Proof.Machine

/-- One position of a byte: `l <- XBIT(txb[i]); rxb[i] <- l` (R130). -/
def bitCycle (i : BitVec 3) (s : State) : State :=
  let d := xbit (bitOf s.txb i) s
  { d.2 with bitpos := i, rxb := setBit d.2.rxb i d.1 }

/-- The positions `k - 1` down to 0, in that order. -/
def bitCycles : Nat → State → State
  | 0, s => s
  | k + 1, s => bitCycles k (bitCycle (BitVec.ofNat 3 k) s)

/-- A byte: positions 7 down to 0 (R57, R132). -/
def exchangeByte (s : State) : State := bitCycles 8 s

/-- What starting a byte writes: the byte to send, an empty receive byte, position 7 (R25, R26, R27). -/
def startByte (v : Byte) (s : State) : State := { s with txb := v, rxb := 0x00, bitpos := 7 }

/-- The acceptance step of XFER (R150). -/
def acceptXfer (txByte : Byte) (s : State) : State :=
  withContext (fun s => { startByte txByte s with op := .xfer, seq := .xbSetup }) s

/-- The events of XFER, and the received byte as its answer (R130). -/
def runXfer (s : State) : State :=
  respond .ok (exchangeByte s).rxb (exchangeByte s)

/-- XFER (R130). -/
def execXfer (txByte : Byte) (s : State) : Host.Outcome State Fault Refusal :=
  wholeCommand (acceptXfer txByte) runXfer s

end Sys2Proof.Machine
end

