-- ==== Sys2Proof/Machine/TransactionEngine.lean ====
section
/-! DEFINITION. Family 4, the Transaction Engine and SS frame controller: TRANS (spec/43_transaction_engine.md). -/

namespace Sys2Proof.Machine

/-- The mark a TRANS within bounds leaves: none more where `TX[0 .. n-1]` has been written (R175, R199; log 5). -/
def transMark (length : Len) (s : State) : Option Mark :=
  if Memory.filled s.tx length.toNat then s.mark else markWith .txNotWritten s

/-- The acceptance step of TRANS: context, then bounds (R141, R150, R165). -/
def acceptTrans (length : Len) (s : State) : State :=
  withContext
    (fun s =>
      if exceedsMax s.build length then lengthFailure s
      else { s with op := .trans, len := length, idx := 0, seq := .trSelect, mark := transMark length s }) s

/-- Step 2: SS low, the frame is open (R142). -/
def selectSlave (s : State) : State := { pinWrite s.cfg.ss false s with tsm := .selected }

/-- The load half of a byte: `TX[idx]` becomes the byte to send (R143, R155). -/
def loadByte (s : State) : State :=
  startByte (memReadTx s.idx s).1 (memReadTx s.idx s).2

/-- The store half of a byte: `RX[idx]` takes the received byte and the index moves on (R143, R155). -/
def storeByte (s : State) : State := { memWriteRx s.idx s.rxb s with idx := s.idx + 1 }

/-- One byte of the frame: load, eight bit cycles, store (R143). -/
def frameByte (s : State) : State := storeByte (exchangeByte (loadByte s))

/-- The byte loop, `k` bytes from the current index on (R143). -/
def frameBytes : Nat → State → State
  | 0, s => s
  | k + 1, s => frameBytes k (frameByte s)

/-- Step 4: SS high, the frame is closed (R144). -/
def deselectSlave (s : State) : State := { pinWrite s.cfg.ss true s with tsm := .idle }

/-- The events of an accepted TRANS and its answer (R140, steps 2 to 5). -/
def runTrans (length : Len) (s : State) : State :=
  respond .ok 0x00 (deselectSlave (frameBytes length.toNat (selectSlave s)))

/-- TRANS (R140). -/
def execTrans (length : Len) (s : State) : Host.Outcome State Fault Refusal :=
  wholeCommand (acceptTrans length) (runTrans length) s

end Sys2Proof.Machine
end

