-- ==== Sys2Proof/Machine/Sequencer.lean ====
section
/-! DEFINITION. The sequencer, one event a step (spec/44_sequencer_steps.md R150 to R157). -/

namespace Sys2Proof.Machine

/-- The acceptance step for a decoded command (R150). -/
def accept (i : Instr) (s : State) : State :=
  match i with
  | .init mosi miso sck ss => acceptInit mosi miso sck ss s
  | .txbit bit => acceptTxbit bit s
  | .rxbit => acceptRxbit s
  | .xfer txByte => acceptXfer txByte s
  | .trans length => acceptTrans length s

/-- A step that makes a pin request: the sequencer stays where it is until the Pin Interface answers (R89, R157.2). -/
def pinStep (done : State) (s : State) : Host.Outcome State Fault Refusal :=
  if s.pinAck then .next done else .next s

/-- `W(p, l)` and the next position. -/
def writeThen (p : Pin) (l : Level) (next : Seq) (s : State) : Host.Outcome State Fault Refusal :=
  pinStep { pinWrite p l s with seq := next } s

/-- The end of `XB_FALL`, after `W(cfg.sck, 0)` (R154). -/
def afterFall (s : State) : Host.Outcome State Fault Refusal :=
  if s.bitpos != 0 then .next { s with bitpos := s.bitpos - 1, seq := .xbSetup }
  else
    match s.op with
    | .xfer => .next (respond .ok s.rxb s)
    | .trans => .next { s with seq := .trStore }
    | .init => .fault .noTransition
    | .txbit => .fault .noTransition
    | .rxbit => .fault .noTransition

/-- `XB_FALL` (R154). -/
def fallStep (s : State) : Host.Outcome State Fault Refusal :=
  if s.pinAck then afterFall (pinWrite s.cfg.sck false s) else .next s

/-- A sample step: `R(cfg.miso) = l` and `rxb[i] <- l` (R152, R153). -/
def sampleStep (i : BitVec 3) (next : Seq) (s : State) : Host.Outcome State Fault Refusal :=
  let d := readMiso s
  pinStep { d.2 with rxb := setBit d.2.rxb i d.1, seq := next } s

/-- `TR_LOAD` (R155); an index outside the buffer is no address of `TX` (R56). -/
def loadStep (s : State) : Host.Outcome State Fault Refusal :=
  if inBuffer s.idx s then .next { loadByte s with seq := .xbSetup } else .fault (.txIndex s.idx)

/-- `TR_STORE` (R155); an index outside the buffer is no address of `RX` (R56). -/
def storeStep (s : State) : Host.Outcome State Fault Refusal :=
  if inBuffer s.idx s then
    .next { storeByte s with seq := if s.idx + 1 = s.len then .trDeselect else .trLoad }
  else .fault (.rxIndex s.idx)

/-- One step of the sequencer, by `seq` alone (R151 to R156); in `IDLE` with no command nothing changes (R157.3). -/
def tick (s : State) : Host.Outcome State Fault Refusal :=
  match s.seq with
  | .idle => .next s
  | .initMosi => writeThen s.cfg.mosi false .initSck s
  | .initSck => writeThen s.cfg.sck false .initSs s
  | .initSs => pinStep (respond .ok 0x00 (pinWrite s.cfg.ss true s)) s
  | .tbSetup => writeThen s.cfg.mosi (bitOf s.txb 0) .tbRise s
  | .tbRise => writeThen s.cfg.sck true .tbFall s
  | .tbFall => pinStep (respond .ok 0x00 (pinWrite s.cfg.sck false s)) s
  | .rbRise => writeThen s.cfg.sck true .rbSample s
  | .rbSample => sampleStep 0 .rbFall s
  | .rbFall => pinStep (respond .ok s.rxb (pinWrite s.cfg.sck false s)) s
  | .xbSetup => writeThen s.cfg.mosi (bitOf s.txb s.bitpos) .xbRise s
  | .xbRise => writeThen s.cfg.sck true .xbSample s
  | .xbSample => sampleStep s.bitpos .xbFall s
  | .xbFall => fallStep s
  | .trSelect => pinStep { selectSlave s with seq := if s.len = 0 then .trDeselect else .trLoad } s
  | .trLoad => loadStep s
  | .trStore => storeStep s
  | .trDeselect => pinStep (respond .ok 0x00 (deselectSlave s)) s

/-- `k` steps of the sequencer. -/
def ticks : Nat → State → Host.Outcome State Fault Refusal
  | 0, s => .next s
  | k + 1, s =>
    match tick s with
    | .next t => ticks k t
    | .fault r => .fault r
    | .refused r => .refused r

/-- The steps a command takes after an acceptance that starts it (R203). -/
def stepsAfterAcceptance : Instr → Nat
  | .init _ _ _ _ => 3
  | .txbit _ => 3
  | .rxbit => 3
  | .xfer _ => 32
  | .trans length => 2 + 34 * length.toNat

end Sys2Proof.Machine
end

