-- ==== Sys2Proof/Machine/Dispatch.lean ====
section
/-! DEFINITION. One arm per command: the whole command as one transition (spec/00_scope.md R11, files 40 to 43). -/

namespace Sys2Proof.Machine

/-- The meaning of a command presented to the engine. -/
def exec (i : Instr) (s : State) : Host.Outcome State Fault Refusal :=
  match i with
  | .init mosi miso sck ss => Sys2Proof.Machine.execInit mosi miso sck ss s
  | .txbit bit => Sys2Proof.Machine.execTxbit bit s
  | .rxbit => Sys2Proof.Machine.execRxbit s
  | .xfer txByte => Sys2Proof.Machine.execXfer txByte s
  | .trans length => Sys2Proof.Machine.execTrans length s

end Sys2Proof.Machine
end

