-- ==== Sys2Proof/Machine/Environment.lean ====
section
/-! DEFINITION. The world outside the engine: what each of its moves does (spec/70_reset_and_hazards.md R190 to R205). -/

namespace Sys2Proof.Machine

/-- Moves that the engine, or the host's contract, holds back until `seq = IDLE`: commands (R150, D20) and the host's
buffer accesses (R68, R199). -/
def needsIdle : Input → Bool
  | .call _ => true
  | .present _ => true
  | .pass => false
  | .reset => false
  | .writeTx _ _ => true
  | .writeRx _ _ => true
  | .setMiso _ => false
  | .setPinAck _ => false

/-- A reserved word at the acceptance step (R150, R163). -/
def acceptReserved (s : State) : State := refuse .reservedEncoding (clearResp s)

/-- A word called: the whole command, or the refusal of a reserved word. -/
def callWord (w : CmdWord) (s : State) : Host.Outcome State Fault Refusal :=
  match decode w with
  | .command i => exec i s
  | .invalid _ => .next (acceptReserved s)

/-- A word presented: its acceptance step (R150). -/
def presentWord (w : CmdWord) (s : State) : State :=
  match decode w with
  | .command i => accept i s
  | .invalid _ => acceptReserved s

/-- One move of the outside world, already taken from `env`, on an engine that lets it happen. -/
def takeInput (m : Input) (s : State) : Host.Outcome State Fault Refusal :=
  match m with
  | .call w => callWord w s
  | .present w => .next (presentWord w s)
  | .pass => tick s
  | .reset => .next (resetEngine s)
  | .writeTx i v => if inBuffer i s then .next (putTx i v s) else .fault (.txIndex i)
  | .writeRx i v => if inBuffer i s then .next (putRx i v s) else .fault (.rxIndex i)
  | .setMiso source => .next { s with misoSource := source }
  | .setPinAck ack => .next { s with pinAck := ack }

/-- The next thing that happens: the first move of `env`, or a step of the sequencer while that move must wait or nobody moves. -/
def advance (s : State) : Host.Outcome State Fault Refusal :=
  match s.env with
  | [] => tick s
  | m :: rest => if needsIdle m && s.seq != .idle then tick s else takeInput m { s with env := rest }

/-- `s` with a word at the head of the command port and an engine that is ready for it. -/
def placeWord (w : CmdWord) (s : State) : State := { s with env := .call w :: s.env, seq := .idle }

end Sys2Proof.Machine
end

