-- ==== Sys2Proof/Machine/Step.lean ====
section
/-! DEFINITION. One step of the machine, and where the next instruction is placed (log 8). -/

namespace Sys2Proof.Machine

/-- One step: a move of the outside world or a step of the sequencer (R11, R150 to R157, R205). -/
def step (s : State) : Host.Outcome State Fault Refusal := advance s

/-- `s` with an instruction placed where `step` takes its next one: called by the host, on an idle engine (log 8). -/
def State.withFetchWord (s : State) (nbits w : Nat) : State := placeWord (tableWord nbits w) s

end Sys2Proof.Machine
end

