-- ==== Sys2Proof/Machine/Ports.lean ====
section
/-! DEFINITION. The output ports of the block as functions of the state (spec/30_encoding.md R89, R90). -/

namespace Sys2Proof.Machine

/-- `cmd_ready`: 1 exactly when `seq = IDLE` (R89). -/
def cmdReady (s : State) : Bool := s.seq == .idle

/-- The `resp` port while `resp_valid` is 1 (R89). -/
def respPort (s : State) : Option (BitVec 10) := if s.respValid then some (respWord s) else none

/-- `pin_req_op` and `pin_req_pin` (R89). -/
structure PinRequest where
  op : BitVec 2
  pin : Pin
  deriving DecidableEq, Repr

/-- The request of `PinWrite(p, l)`: operation code `{0, l}` (R90). -/
def writeRequest (p : Pin) (l : Level) : PinRequest := { op := 0#1 ++ BitVec.ofBool l, pin := p }

/-- The request of `PinRead(p)`: operation code `0b10` (R90). -/
def readRequest (p : Pin) : PinRequest := { op := 0b10#2, pin := p }

/-- The pin request the engine makes in its present position; none where it makes none (`pin_req_valid = 0`). -/
def pinRequest (s : State) : Option PinRequest :=
  match s.seq with
  | .idle => none
  | .initMosi => some (writeRequest s.cfg.mosi false)
  | .initSck => some (writeRequest s.cfg.sck false)
  | .initSs => some (writeRequest s.cfg.ss true)
  | .tbSetup => some (writeRequest s.cfg.mosi (bitOf s.txb 0))
  | .tbRise => some (writeRequest s.cfg.sck true)
  | .tbFall => some (writeRequest s.cfg.sck false)
  | .rbRise => some (writeRequest s.cfg.sck true)
  | .rbSample => some (readRequest s.cfg.miso)
  | .rbFall => some (writeRequest s.cfg.sck false)
  | .xbSetup => some (writeRequest s.cfg.mosi (bitOf s.txb s.bitpos))
  | .xbRise => some (writeRequest s.cfg.sck true)
  | .xbSample => some (readRequest s.cfg.miso)
  | .xbFall => some (writeRequest s.cfg.sck false)
  | .trSelect => some (writeRequest s.cfg.ss false)
  | .trLoad => none
  | .trStore => none
  | .trDeselect => some (writeRequest s.cfg.ss true)

/-- The request of an event, for an event of the PIN space (R90). -/
def requestOf : Event → Option PinRequest
  | .pinWrite p l => some (writeRequest p l)
  | .pinRead p _ => some (readRequest p)
  | .txRead _ _ => none
  | .rxWrite _ _ => none

/-- `tx_index` while `tx_rd` is 1 (R89). -/
def txPort (s : State) : Option Len := if s.seq = .trLoad then some s.idx else none

/-- `rx_index` and `rx_data` while `rx_wr` is 1 (R89). -/
def rxPort (s : State) : Option (Len × Byte) := if s.seq = .trStore then some (s.idx, s.rxb) else none

end Sys2Proof.Machine
end

