-- ==== Sys2Proof/Safety.lean ====
section
/-! DEFINITION. The terms in which claims are made: the traces the rules prescribe, and the invariant of the engine
(spec/10_state.md R29, R38; spec/30_encoding.md R91). -/

namespace Sys2Proof.Machine

/-! ### Traces -/

/-- The bits of a byte in the order they go over the wire (R57). -/
def bitsMsbFirst (v : Byte) : List Level :=
  [v.getLsbD 7, v.getLsbD 6, v.getLsbD 5, v.getLsbD 4, v.getLsbD 3, v.getLsbD 2, v.getLsbD 1, v.getLsbD 0]

/-- The byte eight samples make, the first one most significant: `s0*128 + s1*64 + ... + s7` (R57). -/
def assembleMsbFirst (samples : List Level) : Byte :=
  samples.foldl (fun v l => v + v + byteOfLevel l) 0

/-- The events of one fused bit cycle: one SCK pulse (R112). -/
def bitEvents (c : PinConfig) (b sample : Level) : List Event :=
  [.pinWrite c.mosi b, .pinWrite c.sck true, .pinRead c.miso sample, .pinWrite c.sck false]

/-- The 32 events of one byte (R130). -/
def byteEvents (c : PinConfig) (v : Byte) (samples : List Level) : List Event :=
  (List.zipWith (bitEvents c) (bitsMsbFirst v) samples).flatten

/-- The events between the two SS events of a frame, from an index on: for each byte its load, its 32 pin events and its
store (R140). -/
def frameEvents (c : PinConfig) : Len → List (Byte × List Level) → List Event
  | _, [] => []
  | i, (v, samples) :: rest =>
    .txRead i v :: (byteEvents c v samples ++ .rxWrite i (assembleMsbFirst samples) :: frameEvents c (i + 1) rest)

/-- The bytes `TX[0 .. n-1]` before a transaction. -/
def sentBytes (n : Nat) (s : State) : List Byte :=
  (List.range n).map fun i => txByte (BitVec.ofNat 32 i) s

/-- The pin an event names, if it names one. -/
def eventPin : Event → Option Pin
  | .pinWrite p _ => some p
  | .pinRead p _ => some p
  | .txRead _ _ => none
  | .rxWrite _ _ => none

/-- How often an event stands in a trace. -/
def countEvent (e : Event) (es : List Event) : Nat := es.countP (· == e)

/-- Whether an event is a pin write. -/
def isPinWrite : Event → Bool
  | .pinWrite _ _ => true
  | .pinRead _ _ => false
  | .txRead _ _ => false
  | .rxWrite _ _ => false

/-- Whether an event is a pin read. -/
def isPinRead : Event → Bool
  | .pinWrite _ _ => false
  | .pinRead _ _ => true
  | .txRead _ _ => false
  | .rxWrite _ _ => false

/-- Whether an event is a buffer read. -/
def isTxRead : Event → Bool
  | .pinWrite _ _ => false
  | .pinRead _ _ => false
  | .txRead _ _ => true
  | .rxWrite _ _ => false

/-- Whether an event is a buffer write. -/
def isRxWrite : Event → Bool
  | .pinWrite _ _ => false
  | .pinRead _ _ => false
  | .txRead _ _ => false
  | .rxWrite _ _ => true

/-- How many events of each kind a trace holds: pin writes, pin reads, buffer reads, buffer writes (R203). -/
def eventCounts (es : List Event) : List Nat :=
  [es.countP isPinWrite, es.countP isPinRead, es.countP isTxRead, es.countP isRxWrite]

/-- The level last driven on a pin, none where nothing has driven it (R33). -/
def driven (p : Pin) (s : State) : Option Level := Memory.read s.pins p.toNat

/-- The four pins of the context are pairwise distinct: the premise of every claim about pin levels (R196). -/
def cfgDistinct (s : State) : Bool := pinsDistinct s.cfg.mosi s.cfg.miso s.cfg.sck s.cfg.ss

/-- The engine is idle, has a context, and its Pin Interface answers: when TXBIT, RXBIT and XFER run and a TRANS within
bounds runs (R150, R157.2). -/
def ready (s : State) : Bool := s.seq == .idle && s.ctxValid && s.pinAck

/-! ### The invariant -/

/-- The command a sequencer position belongs to (R24, R154). -/
def opFits (s : State) : Bool :=
  match s.seq with
  | .idle => true
  | .initMosi | .initSck | .initSs => s.op == .init
  | .tbSetup | .tbRise | .tbFall => s.op == .txbit
  | .rbRise | .rbSample | .rbFall => s.op == .rxbit
  | .xbSetup | .xbRise | .xbSample | .xbFall => s.op == .xfer || s.op == .trans
  | .trSelect | .trLoad | .trStore | .trDeselect => s.op == .trans

/-- The positions in which the frame is open (R29). -/
def frameOpen (s : State) : Bool :=
  match s.seq with
  | .xbSetup | .xbRise | .xbSample | .xbFall => s.op == .trans
  | .trLoad | .trStore | .trDeselect => s.op == .trans
  | _ => false

/-- The level of SCK that a position presupposes; none during INIT's first two steps (R38.3, R114). -/
def sckLevel : Seq → Option Level
  | .initMosi | .initSck => none
  | .tbFall | .rbSample | .rbFall | .xbSample | .xbFall => some true
  | _ => some false

/-- The level of SS that a position presupposes; none during INIT's steps (R38.4, R38.5). -/
def ssLevel (s : State) : Option Level :=
  match s.seq with
  | .initMosi | .initSck | .initSs => none
  | _ => some (!frameOpen s)

/-- Where a transaction stands in its buffers (R28, R38.7). -/
def indexFits (s : State) : Bool :=
  match s.seq with
  | .trSelect => s.len.toNat ≤ s.build.max && s.idx == 0
  | .xbSetup | .xbRise | .xbSample | .xbFall => s.op != .trans || (s.len.toNat ≤ s.build.max && s.idx.toNat < s.len.toNat)
  | .trLoad | .trStore => s.len.toNat ≤ s.build.max && s.idx.toNat < s.len.toNat
  | .trDeselect => s.len.toNat ≤ s.build.max && s.idx == s.len
  | _ => true

/-- What every step keeps: the invariants of R38, made inductive, and the canonical form of the memories. -/
structure Inv (s : State) : Prop where
  /-- `op` is the command whose position `seq` is. -/
  op : opFits s = true
  /-- `ctx_valid = 0` implies `seq = IDLE` (R38.2). -/
  ctx : s.ctxValid = false → s.seq = .idle
  /-- `tsm = SELECTED` exactly in the open positions (R29, R38.1). -/
  tsm : s.tsm = .selected ↔ frameOpen s = true
  /-- `idx` and `len` stay inside the buffers (R38.7). -/
  index : indexFits s = true
  /-- SCK has the level of its position (R38.3). -/
  sck : s.ctxValid = true → cfgDistinct s = true → ∀ l, sckLevel s.seq = some l → driven s.cfg.sck s = some l
  /-- SS has the level of its position (R38.4, R38.5). -/
  ss : s.ctxValid = true → cfgDistinct s = true → ∀ l, ssLevel s = some l → driven s.cfg.ss s = some l
  /-- An unmarked run has distinct, valid pins (R175, R196, R197). -/
  contract : s.mark = none → pinsDefined s = true
  /-- The pin bank is in canonical form. -/
  pins : Memory.wf 256 s.pins = true
  /-- `TX` is in canonical form. -/
  tx : Memory.wf s.build.max s.tx = true
  /-- `RX` is in canonical form. -/
  rx : Memory.wf s.build.max s.rx = true

/-- A state inside the contract: the run is not marked and the invariant holds (R175). -/
def Safe (s : State) : Prop := s.mark = none ∧ Inv s

end Sys2Proof.Machine
end

