-- ==== Sys2Proof/Certificates/Slice0/Obligations.lean ====
section
/-! DEFINITION. The statements for the provers, from the numbered rules of spec/. Nothing is proved here. -/

open Sys2Proof Sys2Proof.Machine

/-! ### Encoding: spec/30_encoding.md -/

/-- R85: `decode(encode(c)) = c` for every constructor value `c`, every operand at every value. -/
def Obligations.DecodeReadsBackEveryEncodedCommand : Prop :=
  ∀ i : Instr, decode (encode i) = .command i

/-- R85: `encode(decode(w)) = w` for every word `w` that is not `Invalid`. -/
def Obligations.EncodeWritesBackEveryDecodedWord : Prop :=
  ∀ (w : CmdWord) (i : Instr), decode w = .command i → encode i = w

/-- R82: a word selects the command of a row exactly when `w AND mask = match`. -/
def Obligations.PatternRowsSelectTheirOwnCommand : Prop :=
  ∀ row ∈ patterns, ∀ w : CmdWord,
    row.selects w = true ↔ ∃ i, decode w = .command i ∧ i.mnemonic = row.mnemonic

/-- R84: the reserved encodings are the words that match none of the five patterns, that is the five listed kinds. -/
def Obligations.ReservedWordsAreTheListedOnes : Prop :=
  ∀ w : CmdWord,
    ((∃ why, decode w = .invalid why) ↔ wordWellFormed w = false) ∧
    ((∃ why, decode w = .invalid why) ↔
      (opcOf w = 0x00 ∨ 0x06 ≤ (opcOf w).toNat ∨ (opcOf w = 0x02 ∧ w.extractLsb' 1 31 ≠ 0) ∨
        (opcOf w = 0x03 ∧ w.extractLsb' 0 32 ≠ 0) ∨ (opcOf w = 0x04 ∧ w.extractLsb' 8 24 ≠ 0)))

/-- R81, R82 on words written out bit by bit: one of each command. -/
def Obligations.SampleWordsDecode : Prop :=
  decode 0b00000001_00000011_00000010_00000001_00000000#40 = .command (.init 0 1 2 3) ∧
  decode 0b00000010_00000000_00000000_00000000_00000001#40 = .command (.txbit true) ∧
  decode 0b00000011_00000000_00000000_00000000_00000000#40 = .command .rxbit ∧
  decode 0b00000100_00000000_00000000_00000000_10100101#40 = .command (.xfer 0xA5) ∧
  decode 0b00000101_00000000_00000000_00000000_00000011#40 = .command (.trans 3)

/-- R83: the response word is `{status, data}` with the codes 0, 1, 2, and the status code `0b11` is never produced. -/
def Obligations.ResponseWordCarriesStatusAndData : Prop :=
  ∀ s : State,
    (respWord s).extractLsb' 0 8 = s.respData ∧
    (respWord s).extractLsb' 8 2 = (match s.respStatus with | .ok => 0#2 | .failLength => 1#2 | .refused => 2#2) ∧
    (respWord s).extractLsb' 8 2 ≠ 3#2

/-! ### A step and the command it runs -/

/-- A called word that decodes runs as its command, the move taken from the host's list; and so does the word that
`withFetchWord` places. -/
def Obligations.StepRunsTheCalledCommand : Prop :=
  (∀ (s : State) (w : CmdWord) (rest : List Input) (i : Instr),
    s.seq = .idle → s.env = .call w :: rest → decode w = .command i → step s = exec i { s with env := rest }) ∧
  ∀ (s : State) (i : Instr), step (s.withFetchWord 40 (encode i).toNat) = exec i { s with seq := .idle }

/-- R150: the acceptance step, case by case. -/
def Obligations.AcceptanceFollowsItsTable : Prop :=
  ∀ (s : State) (w : CmdWord) (rest : List Input), s.seq = .idle → s.env = .present w :: rest →
    (∀ why, decode w = .invalid why →
      ∃ t, step s = .next t ∧
        t = { s with env := rest, respStatus := .refused, respData := 0, respValid := true, mark := t.mark }) ∧
    (∀ m i k c, decode w = .command (.init m i k c) →
      ∃ t, step s = .next t ∧
        t = { s with env := rest, respValid := false, cfg := { mosi := m, miso := i, sck := k, ss := c },
                     ctxValid := true, tsm := .idle, op := .init, seq := .initMosi, mark := t.mark }) ∧
    (∀ i, decode w = .command i → i.needsContext = true → s.ctxValid = false →
      ∃ t, step s = .next t ∧
        t = { s with env := rest, respStatus := .refused, respData := 0, respValid := true, mark := t.mark }) ∧
    (∀ b, decode w = .command (.txbit b) → s.ctxValid = true →
      step s = .next { s with env := rest, respValid := false, op := .txbit, txb := byteOfLevel b, seq := .tbSetup }) ∧
    (decode w = .command .rxbit → s.ctxValid = true →
      step s = .next { s with env := rest, respValid := false, op := .rxbit, rxb := 0, seq := .rbRise }) ∧
    (∀ v, decode w = .command (.xfer v) → s.ctxValid = true →
      step s = .next { s with env := rest, respValid := false, op := .xfer, txb := v, rxb := 0, bitpos := 7,
                              seq := .xbSetup }) ∧
    (∀ n, decode w = .command (.trans n) → s.ctxValid = true → s.build.max < n.toNat →
      step s = .next { s with env := rest, respStatus := .failLength, respData := 0, respValid := true }) ∧
    (∀ n, decode w = .command (.trans n) → s.ctxValid = true → n.toNat ≤ s.build.max →
      ∃ t, step s = .next t ∧
        t = { s with env := rest, respValid := false, op := .trans, len := n, idx := 0, seq := .trSelect, mark := t.mark })

/-- R150: while `seq` is not `IDLE` a command presented waits, is not lost, and has no effect. -/
def Obligations.BusyEngineKeepsCommandsWaiting : Prop :=
  ∀ (s : State) (w : CmdWord) (rest : List Input), s.seq ≠ .idle →
    (s.env = .call w :: rest ∨ s.env = .present w :: rest) →
    step s = tick s ∧ (∀ t, tick s = .next t → t.env = s.env) ∧ ∀ i, exec i s = .next s

/-- R157 item 3: in `IDLE` with no command presented the state does not change. -/
def Obligations.IdleEngineWithoutCommandStaysAsItIs : Prop :=
  ∀ s : State, s.seq = .idle → s.env = [] → step s = .next s

/-! ### INIT: spec/40_context_init.md -/

/-- R100: INIT on an idle engine completes, whatever `ctx_valid` is: the registers, the three writes in order, the answer,
and with distinct pins the idle bus. That `op` still holds INIT in `IDLE` is the model's choice (log 14; R31 and R37 leave it open). -/
def Obligations.InitDrivesTheIdleBus : Prop :=
  ∀ (m i k c : Pin) (s : State), s.seq = .idle → s.pinAck = true →
    ∃ t, exec (.init m i k c) s = .next t ∧
      t.cfg = { mosi := m, miso := i, sck := k, ss := c } ∧ t.ctxValid = true ∧ t.tsm = .idle ∧ t.op = .init ∧
      t.seq = .idle ∧ t.respValid = true ∧ t.respStatus = .ok ∧ t.respData = 0 ∧
      t.trace = s.trace ++ [.pinWrite m false, .pinWrite k false, .pinWrite c true] ∧
      (pinsDistinct m i k c = true → driven m t = some false ∧ driven k t = some false ∧ driven c t = some true)

/-- R100, R101: what INIT leaves unchanged: the buffers, every pin but the three it writes (the previous context's pins among
them). That every working register but `op` is as before is the model's choice (log 14; R31 and R37 leave them open). -/
def Obligations.InitFrame : Prop :=
  ∀ (m i k c : Pin) (s t : State), exec (.init m i k c) s = .next t →
    t = { s with cfg := t.cfg, ctxValid := t.ctxValid, tsm := t.tsm, op := t.op, seq := t.seq,
                 respStatus := t.respStatus, respData := t.respData, respValid := t.respValid,
                 pins := t.pins, trace := t.trace, mark := t.mark } ∧
    ∀ a, a ≠ m.toNat → a ≠ k.toNat → a ≠ c.toNat → Memory.read t.pins a = Memory.read s.pins a

/-- R102, R175 and the model's choice of log 6: INIT marks a run exactly when its pins break the contract. -/
def Obligations.InitMarksARunOutsideTheContract : Prop :=
  ∀ (m i k c : Pin) (s : State), s.seq = .idle → s.pinAck = true → s.mark = none →
    ∃ t, exec (.init m i k c) s = .next t ∧
      (t.mark = none ↔ Instr.inContract s.build (.init m i k c) = true)

/-! ### TXBIT and RXBIT: spec/41_bit_engine.md -/

/-- R110: TXBIT completes: set-up, rising edge, falling edge, `OK, 0x00`; MOSI keeps the bit and SCK is low. The values of `op`
and `txb` in `IDLE` are the model's choice (log 14; R31 leaves them open). -/
def Obligations.TxbitClocksOneBitOut : Prop :=
  ∀ (b : Level) (s : State), ready s = true →
    ∃ t, exec (.txbit b) s = .next t ∧
      t.trace = s.trace ++ [.pinWrite s.cfg.mosi b, .pinWrite s.cfg.sck true, .pinWrite s.cfg.sck false] ∧
      t.seq = .idle ∧ t.respValid = true ∧ t.respStatus = .ok ∧ t.respData = 0 ∧
      t.op = .txbit ∧ t.txb = byteOfLevel b ∧
      driven s.cfg.sck t = some false ∧ (s.cfg.mosi ≠ s.cfg.sck → driven s.cfg.mosi t = some b)

/-- R110: what TXBIT leaves unchanged: `cfg`, `ctx_valid`, `tsm`, the buffers, every pin but MOSI and SCK. That
`rxb`, `bitpos`, `idx` and `len` are as before is the model's choice (log 14; R31 leaves them open in `IDLE`). -/
def Obligations.TxbitFrame : Prop :=
  ∀ (b : Level) (s t : State), exec (.txbit b) s = .next t →
    t = { s with op := t.op, txb := t.txb, seq := t.seq, respStatus := t.respStatus, respData := t.respData,
                 respValid := t.respValid, pins := t.pins, trace := t.trace, mark := t.mark } ∧
    ∀ a, a ≠ s.cfg.mosi.toNat → a ≠ s.cfg.sck.toNat → Memory.read t.pins a = Memory.read s.pins a

/-- R111: RXBIT completes: rising edge, one sample, falling edge; the answer is the sample, which a listed or constant
source decides. The values of `op` and `rxb` in `IDLE` are the model's choice (log 14; R31 leaves them open). -/
def Obligations.RxbitReturnsTheSampledBit : Prop :=
  ∀ s : State, ready s = true →
    ∃ t l, exec .rxbit s = .next t ∧
      t.trace = s.trace ++ [.pinWrite s.cfg.sck true, .pinRead s.cfg.miso l, .pinWrite s.cfg.sck false] ∧
      t.seq = .idle ∧ t.respValid = true ∧ t.respStatus = .ok ∧ t.respData = byteOfLevel l ∧
      t.op = .rxbit ∧ t.rxb = byteOfLevel l ∧ driven s.cfg.sck t = some false ∧
      (∀ l' ls, s.misoSource = .list (l' :: ls) → l = l' ∧ t.misoSource = .list ls) ∧
      (∀ l', s.misoSource = .const l' → l = l' ∧ t.misoSource = .const l')

/-- R111: what RXBIT leaves unchanged: MOSI and SS among the pins, `cfg`, `ctx_valid`, `tsm`, the buffers. That `txb`,
`bitpos`, `idx` and `len` are as before is the model's choice (log 14; R31 leaves them open in `IDLE`). -/
def Obligations.RxbitFrame : Prop :=
  ∀ s t : State, exec .rxbit s = .next t →
    t = { s with op := t.op, rxb := t.rxb, seq := t.seq, respStatus := t.respStatus, respData := t.respData,
                 respValid := t.respValid, pins := t.pins, misoSource := t.misoSource, draws := t.draws,
                 trace := t.trace, mark := t.mark } ∧
    ∀ a, a ≠ s.cfg.sck.toNat → Memory.read t.pins a = Memory.read s.pins a

/-- R111, the document's testable property 3: two RXBITs return two listed samples in order, and SCK is low after each. -/
def Obligations.TwoRxbitsReadInOrder : Prop :=
  ∀ (s : State) (a b : Level) (ls : List Level), ready s = true → s.misoSource = .list (a :: b :: ls) →
    ∃ t u, exec .rxbit s = .next t ∧ exec .rxbit t = .next u ∧
      t.respData = byteOfLevel a ∧ u.respData = byteOfLevel b ∧
      driven s.cfg.sck t = some false ∧ driven s.cfg.sck u = some false

/-! ### XFER: spec/42_byte_engine.md -/

/-- R130, R57: XFER completes: eight fused cycles, most significant bit first both ways; the answer is the byte the eight
samples make, which a listed or constant source decides. -/
def Obligations.XferExchangesOneByte : Prop :=
  ∀ (v : Byte) (s : State), ready s = true →
    ∃ t samples, samples.length = 8 ∧ exec (.xfer v) s = .next t ∧
      t.trace = s.trace ++ byteEvents s.cfg v samples ∧
      t.seq = .idle ∧ t.respValid = true ∧ t.respStatus = .ok ∧ t.respData = assembleMsbFirst samples ∧
      (∀ k, k < 8 → t.respData.getLsbD (7 - k) = samples.getD k false) ∧
      driven s.cfg.sck t = some false ∧ (s.cfg.mosi ≠ s.cfg.sck → driven s.cfg.mosi t = some (v.getLsbD 0)) ∧
      (∀ given rest, given.length = 8 → s.misoSource = .list (given ++ rest) → samples = given ∧ t.misoSource = .list rest) ∧
      (∀ l, s.misoSource = .const l → samples = List.replicate 8 l)

/-- R130 corner case (e): with MISO wired to MOSI the byte received is the byte sent. -/
def Obligations.XferLoopbackReturnsTheByteSent : Prop :=
  ∀ (v : Byte) (s : State), ready s = true → s.misoSource = .loopback → pinsDefined s = true →
    ∃ t, exec (.xfer v) s = .next t ∧ t.respStatus = .ok ∧ t.respData = v

/-- R130: what XFER leaves unchanged: SS among the pins, `cfg`, `ctx_valid`, `tsm`, the buffers. That `idx` and
`len` are as before is the model's choice (log 14; R31 leaves them open in `IDLE`). -/
def Obligations.XferFrame : Prop :=
  ∀ (v : Byte) (s t : State), exec (.xfer v) s = .next t →
    t = { s with op := t.op, txb := t.txb, rxb := t.rxb, bitpos := t.bitpos, seq := t.seq, respStatus := t.respStatus,
                 respData := t.respData, respValid := t.respValid, pins := t.pins, misoSource := t.misoSource,
                 draws := t.draws, trace := t.trace, mark := t.mark } ∧
    ∀ a, a ≠ s.cfg.mosi.toNat → a ≠ s.cfg.sck.toNat → Memory.read t.pins a = Memory.read s.pins a

/-- R131: extraction gives the bit `floor(v / 2^i) mod 2`, insertion sets one bit and leaves the
other seven; into a clear bit it is `v OR (l * 2^i)`. -/
def Obligations.BitsAreExtractedAndInsertedInPlace : Prop :=
  ∀ (v : Byte) (i j : BitVec 3) (l : Level),
    (bitOf v i = true ↔ v.toNat / 2 ^ i.toNat % 2 = 1) ∧
    bitOf (setBit v i l) j = (if j = i then l else bitOf v j) ∧
    (bitOf v i = false → setBit v i l = v ||| (byteOfLevel l <<< i.toNat))

/-! ### TRANS: spec/43_transaction_engine.md -/

/-- R160, R161, R141: an over-long TRANS fails at acceptance: only the response registers change, and again if repeated. -/
def Obligations.OverlongTransFailsWithoutEffect : Prop :=
  ∀ (n : Len) (s : State), s.seq = .idle → s.ctxValid = true → s.build.max < n.toNat →
    ∃ t, exec (.trans n) s = .next t ∧
      t = { s with respStatus := .failLength, respData := 0, respValid := true } ∧ exec (.trans n) t = .next t

/-- R140: a TRANS within bounds completes: one frame, the bytes of `TX` in order, each received byte in its place in
`RX`, SS high, SCK low, MOSI at the last bit sent. -/
def Obligations.TransExchangesOneFrame : Prop :=
  ∀ (n : Len) (s : State), ready s = true → n.toNat ≤ s.build.max →
    ∃ t samples, samples.length = n.toNat ∧ (∀ x ∈ samples, x.length = 8) ∧ exec (.trans n) s = .next t ∧
      t.trace = s.trace ++ .pinWrite s.cfg.ss false ::
        (frameEvents s.cfg 0 (List.zip (sentBytes n.toNat s) samples) ++ [.pinWrite s.cfg.ss true]) ∧
      t.seq = .idle ∧ t.tsm = .idle ∧ t.respValid = true ∧ t.respStatus = .ok ∧ t.respData = 0 ∧
      (∀ k, k < n.toNat → rxByte (BitVec.ofNat 32 k) t = assembleMsbFirst (samples.getD k [])) ∧
      driven s.cfg.ss t = some true ∧
      (cfgDistinct s = true → 0 < n.toNat → driven s.cfg.sck t = some false ∧
        driven s.cfg.mosi t = some ((txByte (n - 1) s).getLsbD 0)) ∧
      (∀ given rest, given.length = n.toNat → (∀ x ∈ given, x.length = 8) →
        s.misoSource = .list (given.flatten ++ rest) → samples = given ∧ t.misoSource = .list rest)

/-- R140, R55: what TRANS leaves unchanged: `cfg`, `ctx_valid`, every pin but MOSI, SCK and SS, every buffer byte at or beyond
`length`, all of `TX` where the buffers are two, all of `RX`'s own storage where they are one. -/
def Obligations.TransFrame : Prop :=
  ∀ (n : Len) (s t : State), exec (.trans n) s = .next t →
    t = { s with op := t.op, txb := t.txb, rxb := t.rxb, bitpos := t.bitpos, idx := t.idx, len := t.len, tsm := t.tsm,
                 seq := t.seq, respStatus := t.respStatus, respData := t.respData, respValid := t.respValid,
                 pins := t.pins, misoSource := t.misoSource, tx := t.tx, rx := t.rx, draws := t.draws,
                 trace := t.trace, mark := t.mark } ∧
    (∀ a, a ≠ s.cfg.mosi.toNat → a ≠ s.cfg.sck.toNat → a ≠ s.cfg.ss.toNat →
      Memory.read t.pins a = Memory.read s.pins a) ∧
    (s.build.bufAlias = false → t.tx = s.tx) ∧ (s.build.bufAlias = true → t.rx = s.rx) ∧
    ∀ a, n.toNat ≤ a → Memory.read t.tx a = Memory.read s.tx a ∧ Memory.read t.rx a = Memory.read s.rx a

/-- R175, R199 (a) and the model's choice of log 5: a TRANS within bounds runs, and it marks the run exactly where a byte of
`TX[0 .. n-1]` has never been written; an earlier mark stays. -/
def Obligations.TransMarksARunOnUnwrittenBytes : Prop :=
  ∀ (n : Len) (s : State), ready s = true → n.toNat ≤ s.build.max →
    ∃ t, exec (.trans n) s = .next t ∧
      ((∀ a, a < n.toNat → Memory.read s.tx a ≠ none) → t.mark = s.mark) ∧
      ∀ a, a < n.toNat → Memory.read s.tx a = none → t.mark = some (s.mark.getD .txNotWritten)

/-- R146: `TRANS 0` has the trace `W(SS,0) W(SS,1)`, no buffer access, no SCK or MOSI activity, response `OK`. -/
def Obligations.EmptyTransIsAnEmptyFrame : Prop :=
  ∀ s : State, ready s = true →
    ∃ t, exec (.trans 0) s = .next t ∧
      t.trace = s.trace ++ [.pinWrite s.cfg.ss false, .pinWrite s.cfg.ss true] ∧
      t.respValid = true ∧ t.respStatus = .ok ∧ t.respData = 0 ∧ t.tx = s.tx ∧ t.rx = s.rx ∧
      driven s.cfg.ss t = some true ∧
      ∀ a, a ≠ s.cfg.ss.toNat → Memory.read t.pins a = Memory.read s.pins a

/-- R69: with `BUF_ALIAS` a transaction sends the original contents and leaves the received bytes in their place. -/
def Obligations.AliasedTransExchangesInPlace : Prop :=
  ∀ (n : Len) (s : State) (given : List (List Level)) (rest : List Level),
    ready s = true → n.toNat ≤ s.build.max → s.build.bufAlias = true →
    given.length = n.toNat → (∀ x ∈ given, x.length = 8) → s.misoSource = .list (given.flatten ++ rest) →
    ∃ t, exec (.trans n) s = .next t ∧
      t.trace = s.trace ++ .pinWrite s.cfg.ss false ::
        (frameEvents s.cfg 0 (List.zip (sentBytes n.toNat s) given) ++ [.pinWrite s.cfg.ss true]) ∧
      ∀ k, k < n.toNat → txByte (BitVec.ofNat 32 k) t = assembleMsbFirst (given.getD k [])

/-! ### Refusals and the order of the checks: spec/60_exceptions.md -/

/-- R163: TXBIT, RXBIT, XFER and TRANS without a context answer `REFUSED, 0x00`: of the hardware's state only the response
registers change. -/
def Obligations.CommandsWithoutContextAreRefused : Prop :=
  ∀ (i : Instr) (s : State), s.seq = .idle → s.ctxValid = false → i.needsContext = true →
    ∃ t, exec i s = .next t ∧
      t = { s with respStatus := .refused, respData := 0, respValid := true, mark := t.mark }

/-- R165: decode comes first, then context, then bounds; whether the word is called or presented. -/
def Obligations.AcceptanceChecksComeInOrder : Prop :=
  ∀ (s : State) (w : CmdWord) (rest : List Input), s.seq = .idle →
    (s.env = .call w :: rest ∨ s.env = .present w :: rest) →
    (∀ why, decode w = .invalid why →
      ∃ t, step s = .next t ∧
        t = { s with env := rest, respStatus := .refused, respData := 0, respValid := true, mark := t.mark }) ∧
    (∀ i, decode w = .command i → i.needsContext = true → s.ctxValid = false →
      ∃ t, step s = .next t ∧
        t = { s with env := rest, respStatus := .refused, respData := 0, respValid := true, mark := t.mark }) ∧
    (∀ n, decode w = .command (.trans n) → s.ctxValid = true → s.build.max < n.toNat →
      step s = .next { s with env := rest, respStatus := .failLength, respData := 0, respValid := true })

/-- R175 and the model's choice of log 5: a refused input marks the run, with its own mark where no earlier one stands. -/
def Obligations.RefusedInputsMarkTheRun : Prop :=
  ∀ (s : State) (w : CmdWord) (rest : List Input), s.seq = .idle →
    (s.env = .call w :: rest ∨ s.env = .present w :: rest) →
    (∀ why, decode w = .invalid why → ∃ t, step s = .next t ∧ t.mark = some (s.mark.getD .reservedEncoding)) ∧
    (∀ i, decode w = .command i → i.needsContext = true → s.ctxValid = false →
      ∃ t, step s = .next t ∧ t.mark = some (s.mark.getD .noContext))

/-- R83, R160, R163: a command that answers fails only where it is a TRANS longer than the buffers, and is refused only where
it needs a context and there is none. -/
def Obligations.FailuresAndRefusalsAreTheListedOnes : Prop :=
  ∀ (i : Instr) (s t : State), s.seq = .idle → exec i s = .next t → t.respValid = true →
    (t.respStatus = .failLength ↔ s.ctxValid = true ∧ ∃ n, i = .trans n ∧ s.build.max < n.toNat) ∧
    (t.respStatus = .refused ↔ s.ctxValid = false ∧ i.needsContext = true)

/-- R175 and the model's choice of log 5: a mark stays, and nothing but an acceptance outside the contract sets one. -/
def Obligations.MarksStayAndComeOnlyFromAcceptance : Prop :=
  ∀ s t : State, step s = .next t →
    (∀ m, s.mark = some m → t.mark = some m) ∧
    (s.mark = none → t.mark ≠ none → s.seq = .idle ∧ ∃ w rest, s.env = .call w :: rest ∨ s.env = .present w :: rest)

/-! ### The sequencer: spec/44_sequencer_steps.md -/

/-- R151: the three steps of INIT. -/
def Obligations.InitStepsFollowTheirTable : Prop :=
  ∀ s : State, s.pinAck = true →
    (s.seq = .initMosi → tick s = .next { s with
        pins := Memory.write s.pins s.cfg.mosi.toNat false,
        trace := s.trace ++ [.pinWrite s.cfg.mosi false], seq := .initSck }) ∧
    (s.seq = .initSck → tick s = .next { s with
        pins := Memory.write s.pins s.cfg.sck.toNat false,
        trace := s.trace ++ [.pinWrite s.cfg.sck false], seq := .initSs }) ∧
    (s.seq = .initSs → tick s = .next { s with
        pins := Memory.write s.pins s.cfg.ss.toNat true,
        trace := s.trace ++ [.pinWrite s.cfg.ss true], respStatus := .ok, respData := 0, respValid := true, seq := .idle })

/-- R152: the three steps of TXBIT and the three of RXBIT. -/
def Obligations.BitStepsFollowTheirTable : Prop :=
  ∀ s : State, s.pinAck = true →
    (s.seq = .tbSetup → tick s = .next { s with
        pins := Memory.write s.pins s.cfg.mosi.toNat (s.txb.getLsbD 0),
        trace := s.trace ++ [.pinWrite s.cfg.mosi (s.txb.getLsbD 0)], seq := .tbRise }) ∧
    (s.seq = .tbRise → tick s = .next { s with
        pins := Memory.write s.pins s.cfg.sck.toNat true,
        trace := s.trace ++ [.pinWrite s.cfg.sck true], seq := .tbFall }) ∧
    (s.seq = .tbFall → tick s = .next { s with
        pins := Memory.write s.pins s.cfg.sck.toNat false,
        trace := s.trace ++ [.pinWrite s.cfg.sck false], respStatus := .ok, respData := 0, respValid := true, seq := .idle }) ∧
    (s.seq = .rbRise → tick s = .next { s with
        pins := Memory.write s.pins s.cfg.sck.toNat true,
        trace := s.trace ++ [.pinWrite s.cfg.sck true], seq := .rbSample }) ∧
    (s.seq = .rbSample → tick s = .next { s with
        misoSource := (sampleMiso s).source, draws := (sampleMiso s).draws,
        trace := s.trace ++ [.pinRead s.cfg.miso (sampleMiso s).level], rxb := setBit s.rxb 0 (sampleMiso s).level,
        seq := .rbFall }) ∧
    (s.seq = .rbFall → tick s = .next { s with
        pins := Memory.write s.pins s.cfg.sck.toNat false,
        trace := s.trace ++ [.pinWrite s.cfg.sck false], respStatus := .ok, respData := s.rxb, respValid := true,
        seq := .idle })

/-- R153, R154: the four steps of a bit cycle and the end of a byte. -/
def Obligations.BitCycleStepsFollowTheirTable : Prop :=
  ∀ s : State, s.pinAck = true →
    (s.seq = .xbSetup → tick s = .next { s with
        pins := Memory.write s.pins s.cfg.mosi.toNat (s.txb.getLsbD s.bitpos.toNat),
        trace := s.trace ++ [.pinWrite s.cfg.mosi (s.txb.getLsbD s.bitpos.toNat)], seq := .xbRise }) ∧
    (s.seq = .xbRise → tick s = .next { s with
        pins := Memory.write s.pins s.cfg.sck.toNat true,
        trace := s.trace ++ [.pinWrite s.cfg.sck true], seq := .xbSample }) ∧
    (s.seq = .xbSample → tick s = .next { s with
        misoSource := (sampleMiso s).source, draws := (sampleMiso s).draws,
        trace := s.trace ++ [.pinRead s.cfg.miso (sampleMiso s).level],
        rxb := setBit s.rxb s.bitpos (sampleMiso s).level, seq := .xbFall }) ∧
    (s.seq = .xbFall → s.bitpos ≠ 0 → tick s = .next { s with
        pins := Memory.write s.pins s.cfg.sck.toNat false,
        trace := s.trace ++ [.pinWrite s.cfg.sck false], bitpos := s.bitpos - 1, seq := .xbSetup }) ∧
    (s.seq = .xbFall → s.bitpos = 0 → s.op = .xfer → tick s = .next { s with
        pins := Memory.write s.pins s.cfg.sck.toNat false, trace := s.trace ++ [.pinWrite s.cfg.sck false],
        respStatus := .ok, respData := s.rxb, respValid := true, seq := .idle }) ∧
    (s.seq = .xbFall → s.bitpos = 0 → s.op = .trans → tick s = .next { s with
        pins := Memory.write s.pins s.cfg.sck.toNat false, trace := s.trace ++ [.pinWrite s.cfg.sck false],
        seq := .trStore })

/-- R155, R156: select, load, store and deselect; load and store with an index inside the buffers, as R155 derives;
a store writes the one array that `BUF_ALIAS` names (R55, R69). -/
def Obligations.TransactionStepsFollowTheirTable : Prop :=
  ∀ s : State, s.pinAck = true →
    (s.seq = .trSelect → tick s = .next { s with
        pins := Memory.write s.pins s.cfg.ss.toNat false,
        trace := s.trace ++ [.pinWrite s.cfg.ss false], tsm := .selected,
        seq := if s.len = 0 then .trDeselect else .trLoad }) ∧
    (s.seq = .trLoad → s.idx.toNat < s.build.max → tick s = .next { s with
        trace := s.trace ++ [.txRead s.idx (txByte s.idx s)], txb := txByte s.idx s, rxb := 0, bitpos := 7,
        seq := .xbSetup }) ∧
    (s.seq = .trStore → s.idx.toNat < s.build.max → ∃ t, tick s = .next t ∧
        t = { s with tx := t.tx, rx := t.rx, trace := s.trace ++ [.rxWrite s.idx s.rxb], idx := s.idx + 1,
                     seq := if s.idx + 1 = s.len then .trDeselect else .trLoad } ∧
        rxByte s.idx t = s.rxb ∧
        (s.build.bufAlias = false → t.tx = s.tx) ∧ (s.build.bufAlias = true → t.rx = s.rx) ∧
        ∀ a, a ≠ s.idx.toNat → Memory.read t.tx a = Memory.read s.tx a ∧ Memory.read t.rx a = Memory.read s.rx a) ∧
    (s.seq = .trDeselect → tick s = .next { s with
        pins := Memory.write s.pins s.cfg.ss.toNat true,
        trace := s.trace ++ [.pinWrite s.cfg.ss true], tsm := .idle, respStatus := .ok, respData := 0,
        respValid := true, seq := .idle })

/-- R157 item 2, U12: a Pin Interface that does not answer a request leaves the engine waiting where it is; and a command
called on it is accepted and waits at its first request (log 9). -/
def Obligations.UnansweredPinRequestHoldsTheEngine : Prop :=
  ∀ s : State, s.pinAck = false →
    (pinRequest s ≠ none → tick s = .next s) ∧ (∀ i, s.seq = .idle → exec i s = .next (accept i s))

/-- R157 items 2 and 4: in every state of the invariant with `seq` not `IDLE` one step is enabled and performs exactly one
event. -/
def Obligations.BusyEngineMakesOneEventAStep : Prop :=
  ∀ s : State, Inv s → s.seq ≠ .idle → s.pinAck = true →
    ∃ t e, tick s = .next t ∧ t.trace = s.trace ++ [e]

/-- R157 item 5: `cfg` and `ctx_valid` are written only by INIT's acceptance, `tsm` only by that, `TR_SELECT` and `TR_DESELECT`, and SS
only in `INIT_SS`, `TR_SELECT` and `TR_DESELECT`. -/
def Obligations.OnlyNamedStepsWriteContextFrameAndSs : Prop :=
  (∀ (i : Instr) (s : State), i.needsContext = true →
    (accept i s).cfg = s.cfg ∧ (accept i s).ctxValid = s.ctxValid ∧ (accept i s).tsm = s.tsm) ∧
  ∀ s t : State, tick s = .next t →
    t.cfg = s.cfg ∧ t.ctxValid = s.ctxValid ∧ (t.tsm ≠ s.tsm → s.seq = .trSelect ∨ s.seq = .trDeselect) ∧
    (cfgDistinct s = true → ∀ l, t.trace = s.trace ++ [.pinWrite s.cfg.ss l] →
      s.seq = .initSs ∨ s.seq = .trSelect ∨ s.seq = .trDeselect)

/-- R157 item 6: no step reads `P`: with a MISO source that is no wire from MOSI, the pin levels change nothing but
themselves. -/
def Obligations.OutputLevelsDoNotFeedBack : Prop :=
  ∀ (s : State) (p : List (Nat × Level)), s.misoSource ≠ .loopback →
    (∀ t, tick s = .next t → ∃ q, tick { s with pins := p } = .next { t with pins := q }) ∧
    (∀ r, tick s = .fault r → tick { s with pins := p } = .fault r)

/-- R11, R203: the sequencer, run from acceptance for the steps of R203, ends in the very state of the whole command. -/
def Obligations.SequencerEndsWhereTheWholeCommandEnds : Prop :=
  ∀ (i : Instr) (s : State), s.seq = .idle → s.pinAck = true → (accept i s).seq ≠ .idle →
    ∃ t, exec i s = .next t ∧ ticks (stepsAfterAcceptance i) (accept i s) = .next t

/-- R203: a command that started is busy until the last of its steps, and that step brings the sequencer to `IDLE`. -/
def Obligations.StartedCommandEndsAtItsLastStep : Prop :=
  ∀ (i : Instr) (s : State), s.seq = .idle → s.pinAck = true → (accept i s).seq ≠ .idle →
    (∀ k, k < stepsAfterAcceptance i → ∃ u, ticks k (accept i s) = .next u ∧ u.seq ≠ .idle) ∧
    ∃ u, ticks (stepsAfterAcceptance i) (accept i s) = .next u ∧ u.seq = .idle ∧ u.respValid = true

/-- R203: the pin writes, pin reads, buffer reads and buffer writes of each command that runs, and its rising edges. -/
def Obligations.CommandsMakeTheCountedEvents : Prop :=
  ∀ (i : Instr) (s t : State), s.seq = .idle → s.pinAck = true → (accept i s).seq ≠ .idle → exec i s = .next t →
    ∃ es, t.trace = s.trace ++ es ∧
      eventCounts es =
        (match i with
         | .init _ _ _ _ => [3, 0, 0, 0]
         | .txbit _ => [3, 0, 0, 0]
         | .rxbit => [2, 1, 0, 0]
         | .xfer _ => [24, 8, 0, 0]
         | .trans n => [2 + 24 * n.toNat, 8 * n.toNat, n.toNat, n.toNat]) ∧
      (cfgDistinct t = true → countEvent (.pinWrite t.cfg.sck true) es =
        (match i with
         | .init _ _ _ _ => 0
         | .txbit _ => 1
         | .rxbit => 1
         | .xfer _ => 8
         | .trans n => 8 * n.toNat))

/-! ### Pins, ports and ordering: spec/20_memory.md, spec/30_encoding.md -/

/-- R54: the pins each command writes and reads, and no other; with distinct pins none is both read and written. -/
def Obligations.CommandsTouchOnlyTheirPins : Prop :=
  ∀ (i : Instr) (s t : State), exec i s = .next t →
    ∃ es, t.trace = s.trace ++ es ∧
      (∀ p l, Event.pinRead p l ∈ es →
        match i with
        | .init _ _ _ _ => False
        | .txbit _ => False
        | .rxbit => p = t.cfg.miso
        | .xfer _ => p = t.cfg.miso
        | .trans n => n.toNat ≤ s.build.max ∧ p = t.cfg.miso) ∧
      (∀ p l, Event.pinWrite p l ∈ es →
        match i with
        | .init _ _ _ _ => p = t.cfg.mosi ∨ p = t.cfg.sck ∨ p = t.cfg.ss
        | .txbit _ => p = t.cfg.mosi ∨ p = t.cfg.sck
        | .rxbit => p = t.cfg.sck
        | .xfer _ => p = t.cfg.mosi ∨ p = t.cfg.sck
        | .trans n => n.toNat ≤ s.build.max ∧ (p = t.cfg.mosi ∨ p = t.cfg.sck ∨ p = t.cfg.ss)) ∧
      (cfgDistinct t = true → ∀ p l l', Event.pinRead p l ∈ es → Event.pinWrite p l' ∉ es)

/-- R33, R51, R52, R171: a look at a pin that is not MISO, whatever the outside world would show, sees the level last set on
it, and a write leaves what is seen on the other pins alone; while there is no context no pin is MISO (log 21). -/
def Obligations.PinReadsReturnTheLastSetLevel : Prop :=
  ∀ (p q : Pin) (l draw draw' : Level) (s : State), pinsDefined s = true → s.build.isValid p = true →
    (s.ctxValid = true → p ≠ s.cfg.miso) →
    inspectPin p draw (pinWrite p l s) = l ∧
    (driven p s = some l → inspectPin p draw s = l) ∧
    (q ≠ p → (s.ctxValid = true → q ≠ s.cfg.miso) → s.build.isValid q = true →
      inspectPin q draw (pinWrite p l s) = inspectPin q draw' s)

/-- R191, R171: after a reset every valid pin is seen at its last driven level, MISO and the others of the old context among
them; that none is MISO then is the model's reading (log 21). -/
def Obligations.ResetLeavesEveryPinAtItsDrivenLevel : Prop :=
  ∀ (p : Pin) (l draw : Level) (s : State) (rest : List Input), s.env = .reset :: rest →
    pinsDefined s = true → s.build.isValid p = true → driven p s = some l →
    ∃ t, step s = .next t ∧ inspectPin p draw t = l

/-- R53: two identical writes leave the same pins as one, and the trace shows two events. -/
def Obligations.RepeatedPinWritesAreIdempotent : Prop :=
  ∀ (p : Pin) (l : Level) (s : State),
    (pinWrite p l (pinWrite p l s)).pins = (pinWrite p l s).pins ∧
    (pinWrite p l (pinWrite p l s)).trace = s.trace ++ [.pinWrite p l, .pinWrite p l]

/-- R89, R90: `cmd_ready` is 1 exactly in `IDLE`, and the event a step performs on a pin is the request on the pin port. -/
def Obligations.PortsShowWhatTheStepDoes : Prop :=
  ∀ s : State,
    (cmdReady s = true ↔ s.seq = .idle) ∧
    (∀ t e, tick s = .next t → t.trace = s.trace ++ [e] →
      requestOf e = pinRequest s ∧
      (∀ i v, e = .txRead i v → txPort s = some i) ∧ (∀ i v, e = .rxWrite i v → rxPort s = some (i, v)))

/-- R68, R199, and log 8 and log 17 for the waiting and the fault: the host's buffer writes happen in `IDLE` and change one
byte; a busy engine does not see them. -/
def Obligations.HostWritesBuffersOnlyWhileIdle : Prop :=
  ∀ (s : State) (i : Len) (v : Byte) (rest : List Input),
    (s.env = .writeTx i v :: rest →
      (s.seq ≠ .idle → step s = tick s) ∧
      (s.seq = .idle → i.toNat < s.build.max →
        ∃ t, step s = .next t ∧ t = { s with env := rest, tx := t.tx } ∧ Memory.read t.tx i.toNat = some v ∧
          txByte i t = v ∧ ∀ a, a ≠ i.toNat → Memory.read t.tx a = Memory.read s.tx a) ∧
      (s.seq = .idle → s.build.max ≤ i.toNat → step s = .fault (.txIndex i))) ∧
    (s.env = .writeRx i v :: rest →
      (s.seq ≠ .idle → step s = tick s) ∧
      (s.seq = .idle → i.toNat < s.build.max →
        ∃ t, step s = .next t ∧ t = { s with env := rest, tx := t.tx, rx := t.rx } ∧ rxByte i t = v ∧
          (s.build.bufAlias = false → t.tx = s.tx ∧ Memory.read t.rx i.toNat = some v) ∧
          (s.build.bufAlias = true → t.rx = s.rx ∧ Memory.read t.tx i.toNat = some v) ∧
          ∀ a, a ≠ i.toNat → Memory.read t.tx a = Memory.read s.tx a ∧ Memory.read t.rx a = Memory.read s.rx a) ∧
      (s.seq = .idle → s.build.max ≤ i.toNat → step s = .fault (.rxIndex i)))

/-- R68, D21: the host's reads of the buffers, in `IDLE` and inside the buffer the byte that is there, with one array the same
byte by both names (R69); while the engine is busy, or outside the buffer, there is no such read. -/
def Obligations.HostReadsBuffersOnlyWhileIdle : Prop :=
  ∀ (s : State) (i : Len),
    (s.seq = .idle → i.toNat < s.build.max →
      hostReadTx i s = some (txByte i s) ∧ hostReadRx i s = some (rxByte i s) ∧
      (s.build.bufAlias = true → hostReadRx i s = hostReadTx i s)) ∧
    (s.seq ≠ .idle ∨ s.build.max ≤ i.toNat → hostReadTx i s = none ∧ hostReadRx i s = none)

/-! ### Reset and parameters: spec/70_reset_and_hazards.md -/

/-- R190, R191: reset at any step boundary sets the four registers and performs no pin access and no buffer access. -/
def Obligations.ResetTouchesNoPinAndNoBuffer : Prop :=
  ∀ (s : State) (rest : List Input), s.env = .reset :: rest →
    ∃ t, step s = .next t ∧ t.seq = .idle ∧ t.tsm = .idle ∧ t.ctxValid = false ∧ t.respValid = false ∧
      t.pins = s.pins ∧ t.tx = s.tx ∧ t.rx = s.rx ∧ t.misoSource = s.misoSource ∧ t.trace = s.trace ∧
      t.build = s.build ∧ t.env = rest

/-- R37: what reset leaves, where the spec gives a value. -/
def Obligations.ResetStateHasTheSpecifiedValues : Prop :=
  State.reset.seq = .idle ∧ State.reset.tsm = .idle ∧ State.reset.ctxValid = false ∧ State.reset.respValid = false

/-- R22: `ctx_valid` is set by an accepted INIT, together with `cfg`, and cleared only by reset. -/
def Obligations.ContextComesFromInitAndGoesWithReset : Prop :=
  ∀ s t : State, step s = .next t →
    (s.ctxValid = true → t.ctxValid = false → ∃ rest, s.env = .reset :: rest) ∧
    (s.ctxValid = false → t.ctxValid = true →
      s.seq = .idle ∧ ∃ w rest m i k c, (s.env = .call w :: rest ∨ s.env = .present w :: rest) ∧
        decode w = .command (.init m i k c) ∧ t.cfg = { mosi := m, miso := i, sck := k, ss := c })

/-- R32, R194: no step changes a build parameter. -/
def Obligations.NoStepChangesTheBuild : Prop :=
  ∀ s t : State, step s = .next t → t.build = s.build

/-! ### The invariant: spec/10_state.md R38, spec/41_bit_engine.md R114 -/

/-- R38 and the canonical form of the memories: every step keeps the invariant, from every state that meets it. -/
def Obligations.EveryStepKeepsTheInvariant : Prop :=
  ∀ s t : State, Inv s → step s = .next t → Inv t

/-- The state after reset meets the invariant. -/
def Obligations.ResetMeetsTheInvariant : Prop := Inv State.reset

/-- R38 items 1 to 5 and 7, from the invariant, for a context of distinct pins. -/
def Obligations.InvariantGivesTheBusRules : Prop :=
  ∀ s : State, Inv s →
    (s.seq = .idle → s.tsm = .idle) ∧
    (s.ctxValid = false → s.seq = .idle) ∧
    (s.ctxValid = true → cfgDistinct s = true →
      (s.seq = .idle → driven s.cfg.sck s = some false ∧ driven s.cfg.ss s = some true) ∧
      (s.seq ≠ .initMosi → s.seq ≠ .initSck → s.seq ≠ .initSs → driven s.cfg.ss s = some false → s.tsm = .selected)) ∧
    (s.op = .trans → s.seq ≠ .idle → s.idx.toNat ≤ s.len.toNat ∧ s.len.toNat ≤ s.build.max) ∧
    (s.mark = none → s.ctxValid = true → cfgDistinct s = true)

/-- R114, R38 item 6: outside INIT, MOSI is written only while SCK is low and the next request is the rising edge; MISO is
read only while SCK is high; SCK is never written to the level it has. -/
def Obligations.ModeZeroEdgesAreKept : Prop :=
  ∀ s t : State, Inv s → s.ctxValid = true → cfgDistinct s = true → s.op ≠ .init → tick s = .next t →
    (∀ l, t.trace = s.trace ++ [.pinWrite s.cfg.mosi l] →
      driven s.cfg.sck s = some false ∧ pinRequest t = some (writeRequest s.cfg.sck true)) ∧
    (∀ l, t.trace = s.trace ++ [.pinRead s.cfg.miso l] → driven s.cfg.sck s = some true) ∧
    (∀ l, t.trace = s.trace ++ [.pinWrite s.cfg.sck l] → driven s.cfg.sck s = some (!l))

/-- R56, R154: inside the invariant the only stop is a host write outside its buffer; nothing is refused. -/
def Obligations.OnlyAHostWriteOutsideTheBufferFaults : Prop :=
  ∀ s : State, Inv s →
    (∀ r, step s ≠ .refused r) ∧
    (∀ r, step s = .fault r → s.seq = .idle ∧ ∃ i v rest, s.build.max ≤ i.toNat ∧
      ((s.env = .writeTx i v :: rest ∧ r = .txIndex i) ∨ (s.env = .writeRx i v :: rest ∧ r = .rxIndex i)))
end

