-- ==== Sys2Proof/Laws/Memory.lean ====
section
/-! SUPPORT. The laws of sparse memory: read after write, and every write keeps the canonical form. -/

namespace Sys2Proof.Machine

section
variable {α : Type} (m : List (Nat × α)) (a b : Nat) (v : α)

@[simp] theorem Memory.read_write_same : Memory.read (Memory.write m a v) a = some v := by
  induction m with
  | nil => simp [Memory.write, Memory.read]
  | cons c m ih =>
    simp only [Memory.write]
    split
    · simp [Memory.read]
    · split
      · simp [Memory.read]
      · next h => simp [Memory.read, Ne.symm h, ih]

theorem Memory.read_write_other (h : b ≠ a) : Memory.read (Memory.write m a v) b = Memory.read m b := by
  induction m with
  | nil => simp [Memory.write, Memory.read, Ne.symm h]
  | cons c m ih =>
    simp only [Memory.write]
    split
    · simp [Memory.read, Ne.symm h]
    · split
      · next e => subst e; simp [Memory.read, Ne.symm h]
      · simp [Memory.read, ih]

/-- One lemma for both cases of a read after a write. -/
theorem Memory.read_write : Memory.read (Memory.write m a v) b = if b = a then some v else Memory.read m b := by
  split
  · next h => subst h; exact Memory.read_write_same m b v
  · next h => exact Memory.read_write_other m a b v h

/-- Every entry of a written memory is the new one or an old one. -/
theorem Memory.mem_write (c : Nat × α) (h : c ∈ Memory.write m a v) : c = (a, v) ∨ c ∈ m := by
  induction m with
  | nil => simpa [Memory.write] using h
  | cons d m ih =>
    simp only [Memory.write] at h
    split at h
    · simpa using h
    · split at h
      · rcases List.mem_cons.1 h with h | h
        · exact .inl h
        · exact .inr (List.mem_cons_of_mem _ h)
      · rcases List.mem_cons.1 h with h | h
        · exact .inr (by simp [h])
        · exact (ih h).imp_right (List.mem_cons_of_mem _)

theorem Memory.rising_write (h : Memory.rising m = true) : Memory.rising (Memory.write m a v) = true := by
  induction m with
  | nil => simp [Memory.write, Memory.rising]
  | cons c m ih =>
    simp only [Memory.rising, Bool.and_eq_true, List.all_eq_true, decide_eq_true_eq] at h
    simp only [Memory.write]
    split
    · next lt =>
      simp only [Memory.rising, Bool.and_eq_true, List.all_eq_true, decide_eq_true_eq, List.mem_cons]
      refine ⟨?_, h.1, h.2⟩
      rintro d (rfl | hd)
      · exact lt
      · exact lt.trans (h.1 d hd)
    · split
      · next e =>
        subst e
        simpa only [Memory.rising, Bool.and_eq_true, List.all_eq_true, decide_eq_true_eq] using h
      · next nlt ne =>
        simp only [Memory.rising, Bool.and_eq_true, List.all_eq_true, decide_eq_true_eq]
        refine ⟨fun d hd => ?_, ih h.2⟩
        rcases Memory.mem_write m a v d hd with rfl | hd
        · show c.1 < a; omega
        · exact h.1 d hd

/-- Every write inside the address space keeps the canonical form. -/
theorem Memory.wf_write (size : Nat) (ha : a < size) (h : Memory.wf size m = true) :
    Memory.wf size (Memory.write m a v) = true := by
  simp only [Memory.wf, Bool.and_eq_true, List.all_eq_true, decide_eq_true_eq] at h ⊢
  refine ⟨Memory.rising_write m a v h.1, fun d hd => ?_⟩
  rcases Memory.mem_write m a v d hd with rfl | hd
  · exact ha
  · exact h.2 d hd

/-- What `Memory.filled` says: each address below the bound is listed. -/
theorem Memory.filled_iff (n : Nat) : Memory.filled m n = true ↔ ∀ a, a < n → (Memory.read m a).isSome = true := by
  induction n with
  | zero => simp [Memory.filled]
  | succ n ih =>
    simp only [Memory.filled, Bool.and_eq_true, ih, Nat.lt_succ_iff_lt_or_eq]
    exact ⟨fun h a ha => ha.elim (h.2 a) fun e => e ▸ h.1, fun h => ⟨h n (.inr rfl), fun a ha => h a (.inl ha)⟩⟩

theorem Memory.wf_nil (size : Nat) : Memory.wf size ([] : List (Nat × α)) = true := rfl

end

/-- A pin write keeps the pin bank in canonical form: an identifier is below 256. -/
theorem pinWrite_wf (p : Pin) (l : Level) (s : State) (h : Memory.wf 256 s.pins = true) :
    Memory.wf 256 (pinWrite p l s).pins = true :=
  Memory.wf_write s.pins p.toNat l 256 p.isLt h

/-- A store inside the buffer keeps `TX` in canonical form, whichever array it goes to (R69). -/
theorem putRx_wf_tx (i : Len) (v : Byte) (s : State) (hi : inBuffer i s = true)
    (h : Memory.wf s.build.max s.tx = true) : Memory.wf s.build.max (putRx i v s).tx = true := by
  unfold putRx
  split
  · exact Memory.wf_write _ _ _ _ (by simpa [inBuffer] using hi) h
  · exact h

/-- A store inside the buffer keeps `RX` in canonical form, whichever array it goes to (R69). -/
theorem putRx_wf_rx (i : Len) (v : Byte) (s : State) (hi : inBuffer i s = true)
    (h : Memory.wf s.build.max s.rx = true) : Memory.wf s.build.max (putRx i v s).rx = true := by
  unfold putRx
  split
  · exact h
  · exact Memory.wf_write _ _ _ _ (by simpa [inBuffer] using hi) h

end Sys2Proof.Machine
end

