-- ==== Sys2Proof/Laws/State.lean ====
section
/-! SUPPORT. What each named update of the state writes and leaves: one lemma per field per update, so that no later
proof unfolds a record update. -/

namespace Sys2Proof.Machine

/-! ### `emit` -/

section
variable (e : Event) (s : State)

@[simp] theorem emit_build : (emit e s).build = s.build := rfl
@[simp] theorem emit_cfg : (emit e s).cfg = s.cfg := rfl
@[simp] theorem emit_ctxValid : (emit e s).ctxValid = s.ctxValid := rfl
@[simp] theorem emit_seq : (emit e s).seq = s.seq := rfl
@[simp] theorem emit_op : (emit e s).op = s.op := rfl
@[simp] theorem emit_bitpos : (emit e s).bitpos = s.bitpos := rfl
@[simp] theorem emit_txb : (emit e s).txb = s.txb := rfl
@[simp] theorem emit_rxb : (emit e s).rxb = s.rxb := rfl
@[simp] theorem emit_idx : (emit e s).idx = s.idx := rfl
@[simp] theorem emit_len : (emit e s).len = s.len := rfl
@[simp] theorem emit_tsm : (emit e s).tsm = s.tsm := rfl
@[simp] theorem emit_respStatus : (emit e s).respStatus = s.respStatus := rfl
@[simp] theorem emit_respData : (emit e s).respData = s.respData := rfl
@[simp] theorem emit_respValid : (emit e s).respValid = s.respValid := rfl
@[simp] theorem emit_pins : (emit e s).pins = s.pins := rfl
@[simp] theorem emit_misoSource : (emit e s).misoSource = s.misoSource := rfl
@[simp] theorem emit_tx : (emit e s).tx = s.tx := rfl
@[simp] theorem emit_rx : (emit e s).rx = s.rx := rfl
@[simp] theorem emit_pinAck : (emit e s).pinAck = s.pinAck := rfl
@[simp] theorem emit_env : (emit e s).env = s.env := rfl
@[simp] theorem emit_trace : (emit e s).trace = s.trace ++ [e] := rfl
@[simp] theorem emit_draws : (emit e s).draws = s.draws := rfl
@[simp] theorem emit_mark : (emit e s).mark = s.mark := rfl

end

/-! ### `pinWrite` -/

section
variable (p : Pin) (l : Level) (s : State)

@[simp] theorem pinWrite_build : (pinWrite p l s).build = s.build := rfl
@[simp] theorem pinWrite_cfg : (pinWrite p l s).cfg = s.cfg := rfl
@[simp] theorem pinWrite_ctxValid : (pinWrite p l s).ctxValid = s.ctxValid := rfl
@[simp] theorem pinWrite_seq : (pinWrite p l s).seq = s.seq := rfl
@[simp] theorem pinWrite_op : (pinWrite p l s).op = s.op := rfl
@[simp] theorem pinWrite_bitpos : (pinWrite p l s).bitpos = s.bitpos := rfl
@[simp] theorem pinWrite_txb : (pinWrite p l s).txb = s.txb := rfl
@[simp] theorem pinWrite_rxb : (pinWrite p l s).rxb = s.rxb := rfl
@[simp] theorem pinWrite_idx : (pinWrite p l s).idx = s.idx := rfl
@[simp] theorem pinWrite_len : (pinWrite p l s).len = s.len := rfl
@[simp] theorem pinWrite_tsm : (pinWrite p l s).tsm = s.tsm := rfl
@[simp] theorem pinWrite_respStatus : (pinWrite p l s).respStatus = s.respStatus := rfl
@[simp] theorem pinWrite_respData : (pinWrite p l s).respData = s.respData := rfl
@[simp] theorem pinWrite_respValid : (pinWrite p l s).respValid = s.respValid := rfl
@[simp] theorem pinWrite_pins : (pinWrite p l s).pins = Memory.write s.pins p.toNat l := rfl
@[simp] theorem pinWrite_misoSource : (pinWrite p l s).misoSource = s.misoSource := rfl
@[simp] theorem pinWrite_tx : (pinWrite p l s).tx = s.tx := rfl
@[simp] theorem pinWrite_rx : (pinWrite p l s).rx = s.rx := rfl
@[simp] theorem pinWrite_pinAck : (pinWrite p l s).pinAck = s.pinAck := rfl
@[simp] theorem pinWrite_env : (pinWrite p l s).env = s.env := rfl
@[simp] theorem pinWrite_trace : (pinWrite p l s).trace = s.trace ++ [.pinWrite p l] := rfl
@[simp] theorem pinWrite_draws : (pinWrite p l s).draws = s.draws := rfl
@[simp] theorem pinWrite_mark : (pinWrite p l s).mark = s.mark := rfl

end

/-! ### The state after `readMiso` -/

section
variable (s : State)

@[simp] theorem readMiso_build : ((readMiso s).2).build = s.build := rfl
@[simp] theorem readMiso_cfg : ((readMiso s).2).cfg = s.cfg := rfl
@[simp] theorem readMiso_ctxValid : ((readMiso s).2).ctxValid = s.ctxValid := rfl
@[simp] theorem readMiso_seq : ((readMiso s).2).seq = s.seq := rfl
@[simp] theorem readMiso_op : ((readMiso s).2).op = s.op := rfl
@[simp] theorem readMiso_bitpos : ((readMiso s).2).bitpos = s.bitpos := rfl
@[simp] theorem readMiso_txb : ((readMiso s).2).txb = s.txb := rfl
@[simp] theorem readMiso_rxb : ((readMiso s).2).rxb = s.rxb := rfl
@[simp] theorem readMiso_idx : ((readMiso s).2).idx = s.idx := rfl
@[simp] theorem readMiso_len : ((readMiso s).2).len = s.len := rfl
@[simp] theorem readMiso_tsm : ((readMiso s).2).tsm = s.tsm := rfl
@[simp] theorem readMiso_respStatus : ((readMiso s).2).respStatus = s.respStatus := rfl
@[simp] theorem readMiso_respData : ((readMiso s).2).respData = s.respData := rfl
@[simp] theorem readMiso_respValid : ((readMiso s).2).respValid = s.respValid := rfl
@[simp] theorem readMiso_pins : ((readMiso s).2).pins = s.pins := rfl
@[simp] theorem readMiso_misoSource : ((readMiso s).2).misoSource = (sampleMiso s).source := rfl
@[simp] theorem readMiso_tx : ((readMiso s).2).tx = s.tx := rfl
@[simp] theorem readMiso_rx : ((readMiso s).2).rx = s.rx := rfl
@[simp] theorem readMiso_pinAck : ((readMiso s).2).pinAck = s.pinAck := rfl
@[simp] theorem readMiso_env : ((readMiso s).2).env = s.env := rfl
@[simp] theorem readMiso_trace : ((readMiso s).2).trace = s.trace ++ [.pinRead s.cfg.miso (sampleMiso s).level] := rfl
@[simp] theorem readMiso_draws : ((readMiso s).2).draws = (sampleMiso s).draws := rfl
@[simp] theorem readMiso_mark : ((readMiso s).2).mark = s.mark := rfl

end

/-! ### `respond` -/

section
variable (status : Status) (data : Byte) (s : State)

@[simp] theorem respond_build : (respond status data s).build = s.build := rfl
@[simp] theorem respond_cfg : (respond status data s).cfg = s.cfg := rfl
@[simp] theorem respond_ctxValid : (respond status data s).ctxValid = s.ctxValid := rfl
@[simp] theorem respond_seq : (respond status data s).seq = .idle := rfl
@[simp] theorem respond_op : (respond status data s).op = s.op := rfl
@[simp] theorem respond_bitpos : (respond status data s).bitpos = s.bitpos := rfl
@[simp] theorem respond_txb : (respond status data s).txb = s.txb := rfl
@[simp] theorem respond_rxb : (respond status data s).rxb = s.rxb := rfl
@[simp] theorem respond_idx : (respond status data s).idx = s.idx := rfl
@[simp] theorem respond_len : (respond status data s).len = s.len := rfl
@[simp] theorem respond_tsm : (respond status data s).tsm = s.tsm := rfl
@[simp] theorem respond_respStatus : (respond status data s).respStatus = status := rfl
@[simp] theorem respond_respData : (respond status data s).respData = data := rfl
@[simp] theorem respond_respValid : (respond status data s).respValid = true := rfl
@[simp] theorem respond_pins : (respond status data s).pins = s.pins := rfl
@[simp] theorem respond_misoSource : (respond status data s).misoSource = s.misoSource := rfl
@[simp] theorem respond_tx : (respond status data s).tx = s.tx := rfl
@[simp] theorem respond_rx : (respond status data s).rx = s.rx := rfl
@[simp] theorem respond_pinAck : (respond status data s).pinAck = s.pinAck := rfl
@[simp] theorem respond_env : (respond status data s).env = s.env := rfl
@[simp] theorem respond_trace : (respond status data s).trace = s.trace := rfl
@[simp] theorem respond_draws : (respond status data s).draws = s.draws := rfl
@[simp] theorem respond_mark : (respond status data s).mark = s.mark := rfl

end

/-! ### `clearResp` -/

section
variable (s : State)

@[simp] theorem clearResp_build : (clearResp s).build = s.build := rfl
@[simp] theorem clearResp_cfg : (clearResp s).cfg = s.cfg := rfl
@[simp] theorem clearResp_ctxValid : (clearResp s).ctxValid = s.ctxValid := rfl
@[simp] theorem clearResp_seq : (clearResp s).seq = s.seq := rfl
@[simp] theorem clearResp_op : (clearResp s).op = s.op := rfl
@[simp] theorem clearResp_bitpos : (clearResp s).bitpos = s.bitpos := rfl
@[simp] theorem clearResp_txb : (clearResp s).txb = s.txb := rfl
@[simp] theorem clearResp_rxb : (clearResp s).rxb = s.rxb := rfl
@[simp] theorem clearResp_idx : (clearResp s).idx = s.idx := rfl
@[simp] theorem clearResp_len : (clearResp s).len = s.len := rfl
@[simp] theorem clearResp_tsm : (clearResp s).tsm = s.tsm := rfl
@[simp] theorem clearResp_respStatus : (clearResp s).respStatus = s.respStatus := rfl
@[simp] theorem clearResp_respData : (clearResp s).respData = s.respData := rfl
@[simp] theorem clearResp_respValid : (clearResp s).respValid = false := rfl
@[simp] theorem clearResp_pins : (clearResp s).pins = s.pins := rfl
@[simp] theorem clearResp_misoSource : (clearResp s).misoSource = s.misoSource := rfl
@[simp] theorem clearResp_tx : (clearResp s).tx = s.tx := rfl
@[simp] theorem clearResp_rx : (clearResp s).rx = s.rx := rfl
@[simp] theorem clearResp_pinAck : (clearResp s).pinAck = s.pinAck := rfl
@[simp] theorem clearResp_env : (clearResp s).env = s.env := rfl
@[simp] theorem clearResp_trace : (clearResp s).trace = s.trace := rfl
@[simp] theorem clearResp_draws : (clearResp s).draws = s.draws := rfl
@[simp] theorem clearResp_mark : (clearResp s).mark = s.mark := rfl

end

/-! ### `lengthFailure` -/

section
variable (s : State)

@[simp] theorem lengthFailure_build : (lengthFailure s).build = s.build := rfl
@[simp] theorem lengthFailure_cfg : (lengthFailure s).cfg = s.cfg := rfl
@[simp] theorem lengthFailure_ctxValid : (lengthFailure s).ctxValid = s.ctxValid := rfl
@[simp] theorem lengthFailure_seq : (lengthFailure s).seq = .idle := rfl
@[simp] theorem lengthFailure_op : (lengthFailure s).op = s.op := rfl
@[simp] theorem lengthFailure_bitpos : (lengthFailure s).bitpos = s.bitpos := rfl
@[simp] theorem lengthFailure_txb : (lengthFailure s).txb = s.txb := rfl
@[simp] theorem lengthFailure_rxb : (lengthFailure s).rxb = s.rxb := rfl
@[simp] theorem lengthFailure_idx : (lengthFailure s).idx = s.idx := rfl
@[simp] theorem lengthFailure_len : (lengthFailure s).len = s.len := rfl
@[simp] theorem lengthFailure_tsm : (lengthFailure s).tsm = s.tsm := rfl
@[simp] theorem lengthFailure_respStatus : (lengthFailure s).respStatus = .failLength := rfl
@[simp] theorem lengthFailure_respData : (lengthFailure s).respData = 0x00 := rfl
@[simp] theorem lengthFailure_respValid : (lengthFailure s).respValid = true := rfl
@[simp] theorem lengthFailure_pins : (lengthFailure s).pins = s.pins := rfl
@[simp] theorem lengthFailure_misoSource : (lengthFailure s).misoSource = s.misoSource := rfl
@[simp] theorem lengthFailure_tx : (lengthFailure s).tx = s.tx := rfl
@[simp] theorem lengthFailure_rx : (lengthFailure s).rx = s.rx := rfl
@[simp] theorem lengthFailure_pinAck : (lengthFailure s).pinAck = s.pinAck := rfl
@[simp] theorem lengthFailure_env : (lengthFailure s).env = s.env := rfl
@[simp] theorem lengthFailure_trace : (lengthFailure s).trace = s.trace := rfl
@[simp] theorem lengthFailure_draws : (lengthFailure s).draws = s.draws := rfl
@[simp] theorem lengthFailure_mark : (lengthFailure s).mark = s.mark := rfl

end

/-! ### `refuse` -/

section
variable (m : Mark) (s : State)

@[simp] theorem refuse_build : (refuse m s).build = s.build := rfl
@[simp] theorem refuse_cfg : (refuse m s).cfg = s.cfg := rfl
@[simp] theorem refuse_ctxValid : (refuse m s).ctxValid = s.ctxValid := rfl
@[simp] theorem refuse_seq : (refuse m s).seq = .idle := rfl
@[simp] theorem refuse_op : (refuse m s).op = s.op := rfl
@[simp] theorem refuse_bitpos : (refuse m s).bitpos = s.bitpos := rfl
@[simp] theorem refuse_txb : (refuse m s).txb = s.txb := rfl
@[simp] theorem refuse_rxb : (refuse m s).rxb = s.rxb := rfl
@[simp] theorem refuse_idx : (refuse m s).idx = s.idx := rfl
@[simp] theorem refuse_len : (refuse m s).len = s.len := rfl
@[simp] theorem refuse_tsm : (refuse m s).tsm = s.tsm := rfl
@[simp] theorem refuse_respStatus : (refuse m s).respStatus = .refused := rfl
@[simp] theorem refuse_respData : (refuse m s).respData = 0x00 := rfl
@[simp] theorem refuse_respValid : (refuse m s).respValid = true := rfl
@[simp] theorem refuse_pins : (refuse m s).pins = s.pins := rfl
@[simp] theorem refuse_misoSource : (refuse m s).misoSource = s.misoSource := rfl
@[simp] theorem refuse_tx : (refuse m s).tx = s.tx := rfl
@[simp] theorem refuse_rx : (refuse m s).rx = s.rx := rfl
@[simp] theorem refuse_pinAck : (refuse m s).pinAck = s.pinAck := rfl
@[simp] theorem refuse_env : (refuse m s).env = s.env := rfl
@[simp] theorem refuse_trace : (refuse m s).trace = s.trace := rfl
@[simp] theorem refuse_draws : (refuse m s).draws = s.draws := rfl
@[simp] theorem refuse_mark : (refuse m s).mark = some (s.mark.getD m) := rfl

end

/-! ### `startByte` -/

section
variable (v : Byte) (s : State)

@[simp] theorem startByte_build : (startByte v s).build = s.build := rfl
@[simp] theorem startByte_cfg : (startByte v s).cfg = s.cfg := rfl
@[simp] theorem startByte_ctxValid : (startByte v s).ctxValid = s.ctxValid := rfl
@[simp] theorem startByte_seq : (startByte v s).seq = s.seq := rfl
@[simp] theorem startByte_op : (startByte v s).op = s.op := rfl
@[simp] theorem startByte_bitpos : (startByte v s).bitpos = 7 := rfl
@[simp] theorem startByte_txb : (startByte v s).txb = v := rfl
@[simp] theorem startByte_rxb : (startByte v s).rxb = 0x00 := rfl
@[simp] theorem startByte_idx : (startByte v s).idx = s.idx := rfl
@[simp] theorem startByte_len : (startByte v s).len = s.len := rfl
@[simp] theorem startByte_tsm : (startByte v s).tsm = s.tsm := rfl
@[simp] theorem startByte_respStatus : (startByte v s).respStatus = s.respStatus := rfl
@[simp] theorem startByte_respData : (startByte v s).respData = s.respData := rfl
@[simp] theorem startByte_respValid : (startByte v s).respValid = s.respValid := rfl
@[simp] theorem startByte_pins : (startByte v s).pins = s.pins := rfl
@[simp] theorem startByte_misoSource : (startByte v s).misoSource = s.misoSource := rfl
@[simp] theorem startByte_tx : (startByte v s).tx = s.tx := rfl
@[simp] theorem startByte_rx : (startByte v s).rx = s.rx := rfl
@[simp] theorem startByte_pinAck : (startByte v s).pinAck = s.pinAck := rfl
@[simp] theorem startByte_env : (startByte v s).env = s.env := rfl
@[simp] theorem startByte_trace : (startByte v s).trace = s.trace := rfl
@[simp] theorem startByte_draws : (startByte v s).draws = s.draws := rfl
@[simp] theorem startByte_mark : (startByte v s).mark = s.mark := rfl

end

/-! ### `putTx` -/

section
variable (i : Len) (v : Byte) (s : State)

@[simp] theorem putTx_build : (putTx i v s).build = s.build := rfl
@[simp] theorem putTx_cfg : (putTx i v s).cfg = s.cfg := rfl
@[simp] theorem putTx_ctxValid : (putTx i v s).ctxValid = s.ctxValid := rfl
@[simp] theorem putTx_seq : (putTx i v s).seq = s.seq := rfl
@[simp] theorem putTx_op : (putTx i v s).op = s.op := rfl
@[simp] theorem putTx_bitpos : (putTx i v s).bitpos = s.bitpos := rfl
@[simp] theorem putTx_txb : (putTx i v s).txb = s.txb := rfl
@[simp] theorem putTx_rxb : (putTx i v s).rxb = s.rxb := rfl
@[simp] theorem putTx_idx : (putTx i v s).idx = s.idx := rfl
@[simp] theorem putTx_len : (putTx i v s).len = s.len := rfl
@[simp] theorem putTx_tsm : (putTx i v s).tsm = s.tsm := rfl
@[simp] theorem putTx_respStatus : (putTx i v s).respStatus = s.respStatus := rfl
@[simp] theorem putTx_respData : (putTx i v s).respData = s.respData := rfl
@[simp] theorem putTx_respValid : (putTx i v s).respValid = s.respValid := rfl
@[simp] theorem putTx_pins : (putTx i v s).pins = s.pins := rfl
@[simp] theorem putTx_misoSource : (putTx i v s).misoSource = s.misoSource := rfl
@[simp] theorem putTx_tx : (putTx i v s).tx = Memory.write s.tx i.toNat v := rfl
@[simp] theorem putTx_rx : (putTx i v s).rx = s.rx := rfl
@[simp] theorem putTx_pinAck : (putTx i v s).pinAck = s.pinAck := rfl
@[simp] theorem putTx_env : (putTx i v s).env = s.env := rfl
@[simp] theorem putTx_trace : (putTx i v s).trace = s.trace := rfl
@[simp] theorem putTx_draws : (putTx i v s).draws = s.draws := rfl
@[simp] theorem putTx_mark : (putTx i v s).mark = s.mark := rfl

end

/-! ### `putRx` -/

section
variable (i : Len) (v : Byte) (s : State)

@[simp] theorem putRx_build : (putRx i v s).build = s.build := by unfold putRx; split <;> rfl
@[simp] theorem putRx_cfg : (putRx i v s).cfg = s.cfg := by unfold putRx; split <;> rfl
@[simp] theorem putRx_ctxValid : (putRx i v s).ctxValid = s.ctxValid := by unfold putRx; split <;> rfl
@[simp] theorem putRx_seq : (putRx i v s).seq = s.seq := by unfold putRx; split <;> rfl
@[simp] theorem putRx_op : (putRx i v s).op = s.op := by unfold putRx; split <;> rfl
@[simp] theorem putRx_bitpos : (putRx i v s).bitpos = s.bitpos := by unfold putRx; split <;> rfl
@[simp] theorem putRx_txb : (putRx i v s).txb = s.txb := by unfold putRx; split <;> rfl
@[simp] theorem putRx_rxb : (putRx i v s).rxb = s.rxb := by unfold putRx; split <;> rfl
@[simp] theorem putRx_idx : (putRx i v s).idx = s.idx := by unfold putRx; split <;> rfl
@[simp] theorem putRx_len : (putRx i v s).len = s.len := by unfold putRx; split <;> rfl
@[simp] theorem putRx_tsm : (putRx i v s).tsm = s.tsm := by unfold putRx; split <;> rfl
@[simp] theorem putRx_respStatus : (putRx i v s).respStatus = s.respStatus := by unfold putRx; split <;> rfl
@[simp] theorem putRx_respData : (putRx i v s).respData = s.respData := by unfold putRx; split <;> rfl
@[simp] theorem putRx_respValid : (putRx i v s).respValid = s.respValid := by unfold putRx; split <;> rfl
@[simp] theorem putRx_pins : (putRx i v s).pins = s.pins := by unfold putRx; split <;> rfl
@[simp] theorem putRx_misoSource : (putRx i v s).misoSource = s.misoSource := by unfold putRx; split <;> rfl
@[simp] theorem putRx_tx : (putRx i v s).tx = if s.build.bufAlias then Memory.write s.tx i.toNat v else s.tx := by unfold putRx; split <;> rfl
@[simp] theorem putRx_rx : (putRx i v s).rx = if s.build.bufAlias then s.rx else Memory.write s.rx i.toNat v := by unfold putRx; split <;> rfl
@[simp] theorem putRx_pinAck : (putRx i v s).pinAck = s.pinAck := by unfold putRx; split <;> rfl
@[simp] theorem putRx_env : (putRx i v s).env = s.env := by unfold putRx; split <;> rfl
@[simp] theorem putRx_trace : (putRx i v s).trace = s.trace := by unfold putRx; split <;> rfl
@[simp] theorem putRx_draws : (putRx i v s).draws = s.draws := by unfold putRx; split <;> rfl
@[simp] theorem putRx_mark : (putRx i v s).mark = s.mark := by unfold putRx; split <;> rfl

end

/-! ### `memWriteRx` -/

section
variable (i : Len) (v : Byte) (s : State)

@[simp] theorem memWriteRx_build : (memWriteRx i v s).build = s.build := by simp [memWriteRx]
@[simp] theorem memWriteRx_cfg : (memWriteRx i v s).cfg = s.cfg := by simp [memWriteRx]
@[simp] theorem memWriteRx_ctxValid : (memWriteRx i v s).ctxValid = s.ctxValid := by simp [memWriteRx]
@[simp] theorem memWriteRx_seq : (memWriteRx i v s).seq = s.seq := by simp [memWriteRx]
@[simp] theorem memWriteRx_op : (memWriteRx i v s).op = s.op := by simp [memWriteRx]
@[simp] theorem memWriteRx_bitpos : (memWriteRx i v s).bitpos = s.bitpos := by simp [memWriteRx]
@[simp] theorem memWriteRx_txb : (memWriteRx i v s).txb = s.txb := by simp [memWriteRx]
@[simp] theorem memWriteRx_rxb : (memWriteRx i v s).rxb = s.rxb := by simp [memWriteRx]
@[simp] theorem memWriteRx_idx : (memWriteRx i v s).idx = s.idx := by simp [memWriteRx]
@[simp] theorem memWriteRx_len : (memWriteRx i v s).len = s.len := by simp [memWriteRx]
@[simp] theorem memWriteRx_tsm : (memWriteRx i v s).tsm = s.tsm := by simp [memWriteRx]
@[simp] theorem memWriteRx_respStatus : (memWriteRx i v s).respStatus = s.respStatus := by simp [memWriteRx]
@[simp] theorem memWriteRx_respData : (memWriteRx i v s).respData = s.respData := by simp [memWriteRx]
@[simp] theorem memWriteRx_respValid : (memWriteRx i v s).respValid = s.respValid := by simp [memWriteRx]
@[simp] theorem memWriteRx_pins : (memWriteRx i v s).pins = s.pins := by simp [memWriteRx]
@[simp] theorem memWriteRx_misoSource : (memWriteRx i v s).misoSource = s.misoSource := by simp [memWriteRx]
@[simp] theorem memWriteRx_tx : (memWriteRx i v s).tx = if s.build.bufAlias then Memory.write s.tx i.toNat v else s.tx := by simp [memWriteRx]
@[simp] theorem memWriteRx_rx : (memWriteRx i v s).rx = if s.build.bufAlias then s.rx else Memory.write s.rx i.toNat v := by simp [memWriteRx]
@[simp] theorem memWriteRx_pinAck : (memWriteRx i v s).pinAck = s.pinAck := by simp [memWriteRx]
@[simp] theorem memWriteRx_env : (memWriteRx i v s).env = s.env := by simp [memWriteRx]
@[simp] theorem memWriteRx_trace : (memWriteRx i v s).trace = s.trace ++ [.rxWrite i v] := by simp [memWriteRx]
@[simp] theorem memWriteRx_draws : (memWriteRx i v s).draws = s.draws := by simp [memWriteRx]
@[simp] theorem memWriteRx_mark : (memWriteRx i v s).mark = s.mark := by simp [memWriteRx]

end

/-! ### `resetEngine` -/

section
variable (s : State)

@[simp] theorem resetEngine_build : (resetEngine s).build = s.build := rfl
@[simp] theorem resetEngine_cfg : (resetEngine s).cfg = { mosi := 0, miso := 0, sck := 0, ss := 0 } := rfl
@[simp] theorem resetEngine_ctxValid : (resetEngine s).ctxValid = false := rfl
@[simp] theorem resetEngine_seq : (resetEngine s).seq = .idle := rfl
@[simp] theorem resetEngine_op : (resetEngine s).op = .init := rfl
@[simp] theorem resetEngine_bitpos : (resetEngine s).bitpos = 0 := rfl
@[simp] theorem resetEngine_txb : (resetEngine s).txb = 0 := rfl
@[simp] theorem resetEngine_rxb : (resetEngine s).rxb = 0 := rfl
@[simp] theorem resetEngine_idx : (resetEngine s).idx = 0 := rfl
@[simp] theorem resetEngine_len : (resetEngine s).len = 0 := rfl
@[simp] theorem resetEngine_tsm : (resetEngine s).tsm = .idle := rfl
@[simp] theorem resetEngine_respStatus : (resetEngine s).respStatus = .ok := rfl
@[simp] theorem resetEngine_respData : (resetEngine s).respData = 0 := rfl
@[simp] theorem resetEngine_respValid : (resetEngine s).respValid = false := rfl
@[simp] theorem resetEngine_pins : (resetEngine s).pins = s.pins := rfl
@[simp] theorem resetEngine_misoSource : (resetEngine s).misoSource = s.misoSource := rfl
@[simp] theorem resetEngine_tx : (resetEngine s).tx = s.tx := rfl
@[simp] theorem resetEngine_rx : (resetEngine s).rx = s.rx := rfl
@[simp] theorem resetEngine_pinAck : (resetEngine s).pinAck = s.pinAck := rfl
@[simp] theorem resetEngine_env : (resetEngine s).env = s.env := rfl
@[simp] theorem resetEngine_trace : (resetEngine s).trace = s.trace := rfl
@[simp] theorem resetEngine_draws : (resetEngine s).draws = s.draws := rfl
@[simp] theorem resetEngine_mark : (resetEngine s).mark = s.mark := rfl

end

end Sys2Proof.Machine
end

