-- ==== Sys2Proof/Laws/Ops.lean ====
section
/-! SUPPORT. One lemma per shared operation: everything it can do, said once. -/

namespace Sys2Proof.Machine

/-! ### Bits -/

/-- Bit insertion, bit by bit: the inserted level at its position, the other bits as they were (R131). -/
theorem getLsbD_setBit (v : Byte) (i : BitVec 3) (l : Level) (j : Nat) (hj : j < 8) :
    (setBit v i l).getLsbD j = if j = i.toNat then l else v.getLsbD j := by
  have hi : i.toNat < 8 := i.isLt
  simp only [setBit, byteOfLevel]
  generalize i.toNat = n at hi ⊢
  interval_cases j <;> interval_cases n <;> cases l <;> simp

/-- The levels of a byte from position `k - 1` down to 0 (R57). -/
def bitsBelow : Nat → Byte → List Level
  | 0, _ => []
  | k + 1, v => bitOf v (BitVec.ofNat 3 k) :: bitsBelow k v

/-- Levels inserted from position `k - 1` down to 0 (R131). -/
def insertBelow : Nat → Byte → List Level → Byte
  | k + 1, v, l :: ls => insertBelow k (setBit v (BitVec.ofNat 3 k) l) ls
  | _, v, _ => v

/-- Eight samples inserted from bit 7 down to bit 0 are assembled most significant first, whatever the byte held (R27, R57). -/
theorem insertBelow_all (v : Byte) (samples : List Level) (h : samples.length = 8) :
    insertBelow 8 v samples = assembleMsbFirst samples := by
  match samples, h with
  | [a, b, c, d, e, f, g, h], _ =>
    apply BitVec.eq_of_getLsbD_eq
    intro j hj
    have bits : (assembleMsbFirst [a, b, c, d, e, f, g, h]).getLsbD j = [h, g, f, e, d, c, b, a].getD j false := by
      clear v
      interval_cases j <;> revert a b c d e f g h <;> decide
    rw [bits]
    simp only [insertBelow, getLsbD_setBit _ _ _ _ hj]
    interval_cases j <;> simp

/-- The receive byte of RXBIT: one bit inserted into an empty byte (R152). -/
theorem setBit_zero (l : Level) : setBit 0#8 0#3 l = byteOfLevel l := by cases l <;> rfl

/-! ### Sampling -/

/-- A list source gives its next level and keeps the rest (R34). -/
theorem sampleMiso_list (l : Level) (ls : List Level) (s : State) (h : s.misoSource = .list (l :: ls)) :
    sampleMiso s = { level := l, source := .list ls, draws := s.draws } := by simp [sampleMiso, h]

/-- A constant source gives its level and stays (R34). -/
theorem sampleMiso_const (l : Level) (s : State) (h : s.misoSource = .const l) :
    sampleMiso s = { level := l, source := .const l, draws := s.draws } := by simp [sampleMiso, h]

/-- The engine's pin read as an update: the MISO source, the draws and the trace, nothing else (R34, R52). -/
theorem readMiso_eq (s : State) :
    readMiso s =
      ((sampleMiso s).level,
       { s with misoSource := (sampleMiso s).source, draws := (sampleMiso s).draws,
                trace := s.trace ++ [.pinRead s.cfg.miso (sampleMiso s).level] }) := rfl

/-- A look at a pin that is not MISO sees the level on its wire (R52, R171). -/
theorem inspectPin_other (p : Pin) (draw : Level) (s : State) (h : s.ctxValid = true → p ≠ s.cfg.miso) :
    inspectPin p draw s = (wireLevel p s).getD draw := by
  have hm : isMiso p s = false := by
    cases hc : s.ctxValid
    · simp [isMiso, hc]
    · simpa [isMiso, hc] using h hc
  simp [inspectPin, hm]

/-- A look at the MISO pin of the context sees what its source fixes, if anything (R34; log 21). -/
theorem inspectPin_miso (draw : Level) (s : State) (h : s.ctxValid = true) :
    inspectPin s.cfg.miso draw s = (misoLook s).getD draw := by simp [inspectPin, isMiso, h]

/-! ### The bit cycle and the byte -/

/-- The pin bank one bit cycle leaves. -/
def pinsAfterBit (c : PinConfig) (m : List (Nat × Level)) (b : Level) : List (Nat × Level) :=
  Memory.write (Memory.write (Memory.write m c.mosi.toNat b) c.sck.toNat true) c.sck.toNat false

/-- What one bit cycle does, with the level it samples (R112). -/
theorem xbit_eq (b : Level) (s : State) :
    xbit b s =
      ((sampleMiso (pinWrite s.cfg.sck true (pinWrite s.cfg.mosi b s))).level,
       { s with
          pins := pinsAfterBit s.cfg s.pins b,
          trace := s.trace ++ bitEvents s.cfg b (sampleMiso (pinWrite s.cfg.sck true (pinWrite s.cfg.mosi b s))).level,
          misoSource := (sampleMiso (pinWrite s.cfg.sck true (pinWrite s.cfg.mosi b s))).source,
          draws := (sampleMiso (pinWrite s.cfg.sck true (pinWrite s.cfg.mosi b s))).draws }) := by
  have e := readMiso_eq (pinWrite s.cfg.sck true (pinWrite s.cfg.mosi b s))
  simp only [pinWrite_cfg] at e
  simp only [xbit, e, bitEvents, pinsAfterBit]
  simp [pinWrite, emit]

/-- What one bit cycle does, whatever level it samples (R112). -/
theorem xbit_spec (b : Level) (s : State) :
    ∃ l source draws, xbit b s =
      (l, { s with
        pins := pinsAfterBit s.cfg s.pins b, trace := s.trace ++ bitEvents s.cfg b l, misoSource := source,
        draws := draws }) := ⟨_, _, _, xbit_eq b s⟩

/-- What one position of a byte does (R130). -/
theorem bitCycle_spec (i : BitVec 3) (s : State) :
    ∃ l source draws, bitCycle i s =
      { s with
        bitpos := i, rxb := setBit s.rxb i l, pins := pinsAfterBit s.cfg s.pins (bitOf s.txb i),
        trace := s.trace ++ bitEvents s.cfg (bitOf s.txb i) l, misoSource := source, draws := draws } := by
  obtain ⟨l, source, draws, e⟩ := xbit_spec (bitOf s.txb i) s
  exact ⟨l, source, draws, by simp only [bitCycle, e]⟩

/-- What the positions `k - 1` down to 0 do (R130). -/
theorem bitCycles_spec (k : Nat) (s : State) :
    ∃ samples source draws, samples.length = k ∧ bitCycles k s =
      { s with
        bitpos := if k = 0 then s.bitpos else 0, rxb := insertBelow k s.rxb samples,
        pins := (bitsBelow k s.txb).foldl (pinsAfterBit s.cfg) s.pins,
        trace := s.trace ++ (List.zipWith (bitEvents s.cfg) (bitsBelow k s.txb) samples).flatten,
        misoSource := source, draws := draws } := by
  induction k generalizing s with
  | zero => exact ⟨[], s.misoSource, s.draws, rfl, by simp [bitCycles, insertBelow, bitsBelow]⟩
  | succ k ih =>
    obtain ⟨l, source, draws, e⟩ := bitCycle_spec (BitVec.ofNat 3 k) s
    obtain ⟨ls, source', draws', hl, e'⟩ := ih (bitCycle (BitVec.ofNat 3 k) s)
    refine ⟨l :: ls, source', draws', by simp [hl], ?_⟩
    rw [bitCycles, e', e]
    simp only [insertBelow, bitsBelow, List.foldl_cons, List.zipWith_cons_cons, List.flatten_cons, List.append_assoc,
      Nat.succ_ne_zero, if_false]
    rcases k with - | k <;> simp

/-- The pin bank a byte leaves: eight bit cycles on MOSI and SCK (R130). -/
def pinsAfterByte (c : PinConfig) (v : Byte) (pins : List (Nat × Level)) : List (Nat × Level) :=
  (bitsMsbFirst v).foldl (pinsAfterBit c) pins

/-- What a byte does: eight samples, assembled most significant bit first, 32 events, SCK and MOSI (R57, R130, R132). -/
theorem exchangeByte_spec (s : State) :
    ∃ samples source draws, samples.length = 8 ∧ exchangeByte s =
      { s with
        bitpos := 0, rxb := assembleMsbFirst samples, pins := pinsAfterByte s.cfg s.txb s.pins,
        trace := s.trace ++ byteEvents s.cfg s.txb samples, misoSource := source, draws := draws } := by
  obtain ⟨samples, source, draws, h, e⟩ := bitCycles_spec 8 s
  refine ⟨samples, source, draws, h, ?_⟩
  rw [exchangeByte, e, insertBelow_all _ _ h]
  rfl

/-- The pins a byte leaves: every pin but MOSI and SCK as before. -/
theorem pinsAfterByte_other (c : PinConfig) (v : Byte) (m : List (Nat × Level)) (a : Nat)
    (hm : a ≠ c.mosi.toNat) (hk : a ≠ c.sck.toNat) : Memory.read (pinsAfterByte c v m) a = Memory.read m a := by
  simp [pinsAfterByte, pinsAfterBit, bitsMsbFirst, Memory.read_write, hm, hk]

/-- A byte ends with SCK low (R113). -/
theorem pinsAfterByte_sck (c : PinConfig) (v : Byte) (m : List (Nat × Level)) :
    Memory.read (pinsAfterByte c v m) c.sck.toNat = some false := by
  simp [pinsAfterByte, pinsAfterBit, bitsMsbFirst]

/-- A byte leaves its last bit on MOSI (R130 corner case c). -/
theorem pinsAfterByte_mosi (c : PinConfig) (v : Byte) (m : List (Nat × Level)) (h : c.mosi ≠ c.sck) :
    Memory.read (pinsAfterByte c v m) c.mosi.toNat = some (v.getLsbD 0) := by
  have h' : c.mosi.toNat ≠ c.sck.toNat := fun e => h (BitVec.eq_of_toNat_eq e)
  simp [pinsAfterByte, pinsAfterBit, bitsMsbFirst, Memory.read_write, h']

/-- A byte keeps the pin bank in canonical form. -/
theorem pinsAfterByte_wf (c : PinConfig) (v : Byte) (m : List (Nat × Level)) (h : Memory.wf 256 m = true) :
    Memory.wf 256 (pinsAfterByte c v m) = true := by
  have w : ∀ (m : List (Nat × Level)) (p : Pin) (l : Level), Memory.wf 256 m = true →
      Memory.wf 256 (Memory.write m p.toNat l) = true := fun m p l hm => Memory.wf_write m p.toNat l 256 p.isLt hm
  simp only [pinsAfterByte, pinsAfterBit, bitsMsbFirst, List.foldl]
  repeat' apply w
  exact h

/-! ### The host's reads of the buffers -/

/-- When the host reads a byte of `TX`, and which (R68, R50). -/
theorem hostReadTx_eq_some (i : Len) (s : State) (v : Byte) :
    hostReadTx i s = some v ↔ s.seq = .idle ∧ i.toNat < s.build.max ∧ txByte i s = v := by
  simp [hostReadTx, hostMayRead, inBuffer, and_assoc]

/-- When the host reads a byte of `RX`, and which (R68, R50). -/
theorem hostReadRx_eq_some (i : Len) (s : State) (v : Byte) :
    hostReadRx i s = some v ↔ s.seq = .idle ∧ i.toNat < s.build.max ∧ rxByte i s = v := by
  simp [hostReadRx, hostMayRead, inBuffer, and_assoc]

/-! ### Whole commands -/

/-- A busy engine does not accept a command (R150, D20). -/
theorem wholeCommand_busy (acc run : State → State) (s : State) (h : s.seq ≠ .idle) :
    wholeCommand acc run s = .next s := by simp [wholeCommand, h]

/-- A command answered at its acceptance step is over. -/
theorem wholeCommand_answered (acc run : State → State) (s : State) (h : s.seq = .idle) (ha : (acc s).seq = .idle) :
    wholeCommand acc run s = .next (acc s) := by simp [wholeCommand, h, ha]

/-- A command that starts runs to its end where the Pin Interface answers. -/
theorem wholeCommand_runs (acc run : State → State) (s : State) (h : s.seq = .idle) (ha : (acc s).seq ≠ .idle)
    (hp : s.pinAck = true) : wholeCommand acc run s = .next (run (acc s)) := by simp [wholeCommand, h, ha, hp]

/-- A command always answers a next state: the state itself, the accepted one, or the one its events end in. -/
theorem wholeCommand_next (acc run : State → State) (s t : State) (h : wholeCommand acc run s = .next t) :
    (s.seq ≠ .idle ∧ t = s) ∨ (s.seq = .idle ∧ t = acc s) ∨
      (s.seq = .idle ∧ (acc s).seq ≠ .idle ∧ s.pinAck = true ∧ t = run (acc s)) := by
  unfold wholeCommand at h
  split at h
  · next hi =>
    split at h
    · injection h with h; exact .inr (.inl ⟨hi, h.symm⟩)
    · next ha =>
      split at h
      · next hp => injection h with h; exact .inr (.inr ⟨hi, ha, hp, h.symm⟩)
      · injection h with h; exact .inr (.inl ⟨hi, h.symm⟩)
  · next hi => injection h with h; exact .inl ⟨hi, h.symm⟩

/-- The context check where there is a context. -/
theorem withContext_ctx (start : State → State) (s : State) (h : s.ctxValid = true) :
    withContext start s = start (clearResp s) := by simp [withContext, h]

/-- The context check where there is none (R163). -/
theorem withContext_none (start : State → State) (s : State) (h : s.ctxValid = false) :
    withContext start s = refuse .noContext (clearResp s) := by simp [withContext, h]

/-! ### The sequencer, position by position -/

section
variable (s : State)

theorem tick_idle (h : s.seq = .idle) : tick s = .next s := by simp [tick, h]
theorem tick_initMosi (h : s.seq = .initMosi) : tick s = writeThen s.cfg.mosi false .initSck s := by simp [tick, h]
theorem tick_initSck (h : s.seq = .initSck) : tick s = writeThen s.cfg.sck false .initSs s := by simp [tick, h]
theorem tick_initSs (h : s.seq = .initSs) : tick s = pinStep (respond .ok 0x00 (pinWrite s.cfg.ss true s)) s := by simp [tick, h]
theorem tick_tbSetup (h : s.seq = .tbSetup) : tick s = writeThen s.cfg.mosi (bitOf s.txb 0) .tbRise s := by simp [tick, h]
theorem tick_tbRise (h : s.seq = .tbRise) : tick s = writeThen s.cfg.sck true .tbFall s := by simp [tick, h]
theorem tick_tbFall (h : s.seq = .tbFall) : tick s = pinStep (respond .ok 0x00 (pinWrite s.cfg.sck false s)) s := by simp [tick, h]
theorem tick_rbRise (h : s.seq = .rbRise) : tick s = writeThen s.cfg.sck true .rbSample s := by simp [tick, h]
theorem tick_rbSample (h : s.seq = .rbSample) : tick s = sampleStep 0 .rbFall s := by simp [tick, h]
theorem tick_rbFall (h : s.seq = .rbFall) : tick s = pinStep (respond .ok s.rxb (pinWrite s.cfg.sck false s)) s := by simp [tick, h]
theorem tick_xbSetup (h : s.seq = .xbSetup) : tick s = writeThen s.cfg.mosi (bitOf s.txb s.bitpos) .xbRise s := by simp [tick, h]
theorem tick_xbRise (h : s.seq = .xbRise) : tick s = writeThen s.cfg.sck true .xbSample s := by simp [tick, h]
theorem tick_xbSample (h : s.seq = .xbSample) : tick s = sampleStep s.bitpos .xbFall s := by simp [tick, h]
theorem tick_xbFall (h : s.seq = .xbFall) : tick s = fallStep s := by simp [tick, h]
theorem tick_trSelect (h : s.seq = .trSelect) :
    tick s = pinStep { selectSlave s with seq := if s.len = 0 then .trDeselect else .trLoad } s := by simp [tick, h]
theorem tick_trLoad (h : s.seq = .trLoad) : tick s = loadStep s := by simp [tick, h]
theorem tick_trStore (h : s.seq = .trStore) : tick s = storeStep s := by simp [tick, h]
theorem tick_trDeselect (h : s.seq = .trDeselect) : tick s = pinStep (respond .ok 0x00 (deselectSlave s)) s := by simp [tick, h]

end

/-- A pin step either waits or is done. -/
theorem pinStep_next (done s t : State) (h : pinStep done s = .next t) :
    (s.pinAck = true ∧ t = done) ∨ (s.pinAck = false ∧ t = s) := by
  unfold pinStep at h
  split at h <;> injection h with h
  · next hp => exact .inl ⟨hp, h.symm⟩
  · next hp => exact .inr ⟨by simpa using hp, h.symm⟩

/-- `XB_FALL` repeats the cycle, ends an XFER or goes on to the store of a TRANS (R154). -/
theorem afterFall_next (s t : State) (h : afterFall s = .next t) :
    (s.bitpos ≠ 0 ∧ t = { s with bitpos := s.bitpos - 1, seq := .xbSetup }) ∨
      (s.bitpos = 0 ∧ s.op = .xfer ∧ t = respond .ok s.rxb s) ∨
      (s.bitpos = 0 ∧ s.op = .trans ∧ t = { s with seq := .trStore }) := by
  unfold afterFall at h
  split at h
  · next hb => injection h with h; exact .inl ⟨by simpa using hb, h.symm⟩
  · next hb =>
    have hb : s.bitpos = 0 := by simpa using hb
    split at h <;> cases h
    · exact .inr (.inl ⟨hb, ‹_›, rfl⟩)
    · exact .inr (.inr ⟨hb, ‹_›, rfl⟩)

/-- Composition of runs of the sequencer. -/
theorem ticks_add (j k : Nat) (s t : State) (h : ticks j s = .next t) : ticks (j + k) s = ticks k t := by
  induction j generalizing s with
  | zero => simp only [ticks] at h; injection h with h; simp [h]
  | succ j ih =>
    rw [Nat.succ_add]
    simp only [ticks] at h ⊢
    cases e : tick s with
    | next u => rw [e] at h; exact ih u h
    | fault r => rw [e] at h; cases h
    | refused r => rw [e] at h; cases h

/-- One step of the machine with nothing coming from outside. -/
theorem step_nil (s : State) (h : s.env = []) : step s = tick s := by simp [step, advance, h]

/-- One step of the machine with a move that must wait. -/
theorem step_waits (s : State) (m : Input) (rest : List Input) (h : s.env = m :: rest) (hm : needsIdle m = true)
    (hs : s.seq ≠ .idle) : step s = tick s := by simp [step, advance, h, hm, hs]

/-- One step of the machine with a move that can happen. -/
theorem step_takes (s : State) (m : Input) (rest : List Input) (h : s.env = m :: rest)
    (hm : needsIdle m = false ∨ s.seq = .idle) : step s = takeInput m { s with env := rest } := by
  rcases hm with hm | hm <;> simp [step, advance, h, hm]

end Sys2Proof.Machine
end

