-- ==== Sys2Proof/Laws/Frames.lean ====
section
/-! SUPPORT. The buffers after a store, and one byte of a frame: what the transaction engine's loop body does, said once. -/

namespace Sys2Proof.Machine

/-! ### The buffers -/

/-- Two pin identifiers that differ name two addresses of the pin bank. -/
theorem pin_toNat_ne {p q : Pin} (h : p ≠ q) : p.toNat ≠ q.toNat := fun e => h (BitVec.eq_of_toNat_eq e)

/-- `TX` depends on its own array only. -/
theorem txByte_congr (i : Len) (s t : State) (h : t.tx = s.tx) : txByte i t = txByte i s := by simp [txByte, h]

/-- `RX` depends on the two arrays and on `BUF_ALIAS` only. -/
theorem rxByte_congr (i : Len) (s t : State) (hb : t.build = s.build) (ht : t.tx = s.tx) (hr : t.rx = s.rx) :
    rxByte i t = rxByte i s := by simp [rxByte, txByte, hb, ht, hr]

/-- `RX` after a store, with one array or with two (R56, R69). -/
theorem rxByte_putRx (i j : Len) (v : Byte) (s : State) :
    rxByte j (putRx i v s) = if j = i then v else rxByte j s := by
  have e : (j.toNat = i.toNat) ↔ j = i := ⟨fun h => BitVec.eq_of_toNat_eq h, fun h => by rw [h]⟩
  simp only [rxByte, putRx_build, txByte]
  split
  · next hb =>
    simp only [putRx_tx, hb, if_true, Memory.read_write, e]
    split <;> rfl
  · next hb =>
    simp only [putRx_rx, hb, Bool.false_eq_true, if_false, Memory.read_write, e]
    split <;> rfl

/-- A store to `RX[i]` leaves every other byte of `TX`, with one array or with two (R69). -/
theorem txByte_putRx (i j : Len) (v : Byte) (s : State) (h : j ≠ i) : txByte j (putRx i v s) = txByte j s := by
  have ne : ¬ (j.toNat = i.toNat) := fun e => h (BitVec.eq_of_toNat_eq e)
  simp only [txByte, putRx_tx]
  split <;> simp [Memory.read_write, ne]

/-! ### Bytes whose samples the source decides -/

/-- The positions `k - 1` down to 0 with a list source: its next `k` levels, in order (R34, R57). -/
theorem bitCycles_list (k : Nat) (s : State) (given rest : List Level) (hg : given.length = k)
    (h : s.misoSource = .list (given ++ rest)) :
    (bitCycles k s).rxb = insertBelow k s.rxb given ∧ (bitCycles k s).misoSource = .list rest ∧
    (bitCycles k s).trace = s.trace ++ (List.zipWith (bitEvents s.cfg) (bitsBelow k s.txb) given).flatten := by
  induction k generalizing s given with
  | zero => cases given <;> simp_all [bitCycles, insertBelow, bitsBelow]
  | succ k ih =>
    match given, hg with
    | l :: ls, hg =>
      have e := xbit_eq (bitOf s.txb (BitVec.ofNat 3 k)) s
      have es : sampleMiso (pinWrite s.cfg.sck true (pinWrite s.cfg.mosi (bitOf s.txb (BitVec.ofNat 3 k)) s)) =
          ⟨l, .list (ls ++ rest), s.draws⟩ := by
        simp [sampleMiso, h]
      rw [es] at e
      have t := ih (bitCycle (BitVec.ofNat 3 k) s) ls (by simpa using hg) (by simp [bitCycle, e])
      simp only [bitCycles]
      rw [t.1, t.2.1, t.2.2]
      simp [bitCycle, e, insertBelow, bitsBelow]

/-- The positions `k - 1` down to 0 with a constant source: that level `k` times (R34). -/
theorem bitCycles_const (k : Nat) (s : State) (l : Level) (h : s.misoSource = .const l) :
    (bitCycles k s).rxb = insertBelow k s.rxb (List.replicate k l) ∧ (bitCycles k s).misoSource = .const l ∧
    (bitCycles k s).trace =
      s.trace ++ (List.zipWith (bitEvents s.cfg) (bitsBelow k s.txb) (List.replicate k l)).flatten := by
  induction k generalizing s with
  | zero => simp_all [bitCycles, insertBelow, bitsBelow]
  | succ k ih =>
    have e := xbit_eq (bitOf s.txb (BitVec.ofNat 3 k)) s
    have es : sampleMiso (pinWrite s.cfg.sck true (pinWrite s.cfg.mosi (bitOf s.txb (BitVec.ofNat 3 k)) s)) =
        ⟨l, .const l, s.draws⟩ := by
      simp [sampleMiso, h]
    rw [es] at e
    have t := ih (bitCycle (BitVec.ofNat 3 k) s) (by simp [bitCycle, e])
    simp only [bitCycles]
    rw [t.1, t.2.1, t.2.2]
    simp [bitCycle, e, insertBelow, bitsBelow, List.replicate_succ]

/-- The samples of a byte can be read off its events. -/
theorem bitEvents_injective (c : PinConfig) (bits xs ys : List Level) (hx : xs.length = bits.length)
    (hy : ys.length = bits.length)
    (h : (List.zipWith (bitEvents c) bits xs).flatten = (List.zipWith (bitEvents c) bits ys).flatten) : xs = ys := by
  induction bits generalizing xs ys with
  | nil => cases xs <;> cases ys <;> simp_all
  | cons b bits ih =>
    cases xs <;> cases ys <;> simp_all [bitEvents]
    exact ih _ _ hx hy h.2

/-! ### One byte of a frame -/

/-- What the load half of a byte does (R143, R155). -/
theorem loadByte_eq (s : State) :
    loadByte s =
      { s with
        txb := txByte s.idx s, rxb := 0x00, bitpos := 7, trace := s.trace ++ [.txRead s.idx (txByte s.idx s)] } := rfl

/-- What one byte of a frame does: load, eight bit cycles, store, and the next index (R143). -/
theorem frameByte_spec (s : State) :
    ∃ samples source draws, samples.length = 8 ∧ frameByte s =
      { s with
        txb := txByte s.idx s, rxb := assembleMsbFirst samples, bitpos := 0, idx := s.idx + 1,
        pins := pinsAfterByte s.cfg (txByte s.idx s) s.pins,
        tx := (putRx s.idx (assembleMsbFirst samples) s).tx, rx := (putRx s.idx (assembleMsbFirst samples) s).rx,
        trace := s.trace ++
          (.txRead s.idx (txByte s.idx s) ::
            (byteEvents s.cfg (txByte s.idx s) samples ++ [.rxWrite s.idx (assembleMsbFirst samples)])),
        misoSource := source, draws := draws } := by
  obtain ⟨samples, source, draws, hl, e⟩ := exchangeByte_spec (loadByte s)
  refine ⟨samples, source, draws, hl, ?_⟩
  simp only [frameByte, e, storeByte, memWriteRx, emit, putRx, putTx]
  rw [loadByte_eq]
  split <;> simp_all

end Sys2Proof.Machine
end

