-- ==== Sys2Proof/Laws/Steps.lean ====
section
/-! SUPPORT. Acceptance, the steps of the sequencer where the Pin Interface answers, and the step of the machine: what each
can do, said once. -/

namespace Sys2Proof.Machine

/-! ### Acceptance -/

/-- Acceptance without a context, for a command that needs one (R150, R163). -/
theorem accept_none (i : Instr) (s : State) (hc : s.ctxValid = false) (hi : i.needsContext = true) :
    accept i s = refuse .noContext (clearResp s) := by
  cases i <;>
    simp_all [accept, Instr.needsContext, acceptTxbit, acceptRxbit, acceptXfer, acceptTrans, withContext]

/-- Acceptance of a TRANS within bounds (R141, R150). -/
theorem acceptTrans_fits (n : Len) (s : State) (hc : s.ctxValid = true) (hn : n.toNat ≤ s.build.max) :
    acceptTrans n s = { s with respValid := false, op := .trans, len := n, idx := 0, seq := .trSelect, mark := transMark n s } := by
  simp [acceptTrans, withContext, hc, clearResp, exceedsMax, Nat.not_lt.2 hn, transMark, markWith]

/-- The mark of a TRANS within bounds where the host has written its bytes (R199). -/
theorem transMark_written (n : Len) (s : State) (h : ∀ a, a < n.toNat → Memory.read s.tx a ≠ none) :
    transMark n s = s.mark :=
  if_pos ((Memory.filled_iff s.tx n.toNat).2 fun a ha => Option.isSome_iff_ne_none.2 (h a ha))

/-- The mark of a TRANS within bounds where one of its bytes has never been written (R175, R199). -/
theorem transMark_unwritten (n : Len) (s : State) (a : Nat) (ha : a < n.toNat) (h : Memory.read s.tx a = none) :
    transMark n s = some (s.mark.getD .txNotWritten) :=
  if_neg fun f => by simpa [h] using (Memory.filled_iff s.tx n.toNat).1 f a ha

/-- An earlier mark stays (R175; log 5). -/
theorem transMark_stays (n : Len) (s : State) (m : Mark) (h : s.mark = some m) : transMark n s = some m := by
  simp [transMark, markWith, h]

/-- Acceptance of a TRANS out of bounds (R141, R161). -/
theorem acceptTrans_exceeds (n : Len) (s : State) (hs : s.seq = .idle) (hc : s.ctxValid = true)
    (hn : s.build.max < n.toNat) :
    acceptTrans n s = { s with respStatus := .failLength, respData := 0x00, respValid := true } := by
  simp [acceptTrans, withContext, hc, clearResp, exceedsMax, hn, lengthFailure, respond, hs]

/-- What no acceptance writes: the world outside the engine and the trace (R150). -/
theorem accept_outside (i : Instr) (s : State) :
    (accept i s).build = s.build ∧ (accept i s).env = s.env ∧ (accept i s).pinAck = s.pinAck ∧
    (accept i s).pins = s.pins ∧ (accept i s).tx = s.tx ∧ (accept i s).rx = s.rx ∧
    (accept i s).misoSource = s.misoSource ∧ (accept i s).trace = s.trace := by
  cases i <;>
    simp only [accept, acceptInit, acceptTxbit, acceptRxbit, acceptXfer, acceptTrans, withContext]
  all_goals repeat' split
  all_goals simp

/-- The events of a command, for each command. -/
def eventsOf : Instr → State → State
  | .init _ _ _ _ => runInit
  | .txbit bit => runTxbit bit
  | .rxbit => runRxbit
  | .xfer _ => runXfer
  | .trans length => runTrans length

/-- A meaning is an acceptance step followed by the command's events (R11). -/
theorem exec_wholeCommand (i : Instr) (s : State) : exec i s = wholeCommand (accept i) (eventsOf i) s := by
  cases i <;> rfl

/-! ### The sequencer where the Pin Interface answers -/

/-- A pin step is done once the Pin Interface answers (R89). -/
theorem pinStep_done (done s : State) (h : s.pinAck = true) : pinStep done s = .next done := by simp [pinStep, h]

/-- A buffer load inside the buffer (R155). -/
theorem tick_load (s : State) (h : s.seq = .trLoad) (hi : s.idx.toNat < s.build.max) :
    tick s = .next { loadByte s with seq := .xbSetup } :=
  (tick_trLoad s h).trans (if_pos (by simpa [inBuffer] using hi))

/-- A buffer store inside the buffer (R155). -/
theorem tick_store (s : State) (h : s.seq = .trStore) (hi : s.idx.toNat < s.build.max) :
    tick s = .next { storeByte s with seq := if s.idx + 1 = s.len then .trDeselect else .trLoad } :=
  (tick_trStore s h).trans (if_pos (by simpa [inBuffer] using hi))

/-- `XB_FALL` before the last position (R154). -/
theorem afterFall_again (s : State) (h : s.bitpos ≠ 0) :
    afterFall s = .next { s with bitpos := s.bitpos - 1, seq := .xbSetup } := if_pos (by simpa using h)

/-- `XB_FALL` at the end of an XFER (R154). -/
theorem afterFall_xfer (s : State) (h : s.bitpos = 0) (ho : s.op = .xfer) :
    afterFall s = .next (respond .ok s.rxb s) := by
  unfold afterFall
  rw [if_neg (by simp [h]), ho]

/-- `XB_FALL` at the end of a byte of a TRANS (R154). -/
theorem afterFall_trans (s : State) (h : s.bitpos = 0) (ho : s.op = .trans) :
    afterFall s = .next { s with seq := .trStore } := by
  unfold afterFall
  rw [if_neg (by simp [h]), ho]

/-- One step, then the rest. -/
theorem ticks_succ (k : Nat) (s t : State) (h : tick s = .next t) : ticks (k + 1) s = ticks k t := by
  simp [ticks, h]

/-- One step. -/
theorem ticks_one (s : State) : ticks 1 s = tick s := by
  simp only [ticks]
  cases tick s <;> rfl

/-- Four steps are one bit cycle, up to the decision of `XB_FALL` (R112, R153, R154). -/
theorem ticks_bitCycle (s : State) (hs : s.seq = .xbSetup) (hp : s.pinAck = true) :
    ticks 4 s = afterFall { bitCycle s.bitpos s with seq := .xbFall } := by
  refine (ticks_succ 3 s _ ((tick_xbSetup s hs).trans (pinStep_done _ _ hp))).trans ?_
  refine (ticks_succ 2 _ _ ((tick_xbRise _ rfl).trans (pinStep_done _ _ (by exact hp)))).trans ?_
  refine (ticks_succ 1 _ _ ((tick_xbSample _ rfl).trans (pinStep_done _ _ (by exact hp)))).trans ?_
  exact (ticks_one _).trans ((tick_xbFall _ rfl).trans (if_pos (by exact hp)))

/-- What no step of the sequencer writes (R157 items 2 and 5). -/
theorem tick_outside (s t : State) (h : tick s = .next t) :
    t.env = s.env ∧ t.build = s.build ∧ t.cfg = s.cfg ∧ t.ctxValid = s.ctxValid ∧ t.mark = s.mark ∧
    t.pinAck = s.pinAck := by
  cases hs : s.seq <;> simp only [tick, hs, writeThen, sampleStep, fallStep, loadStep, storeStep] at h
  case idle => cases h; simp
  case xbFall =>
    split at h
    · rcases afterFall_next _ _ h with ⟨_, rfl⟩ | ⟨_, _, rfl⟩ | ⟨_, _, rfl⟩ <;> simp
    · cases h; simp
  case trLoad => split at h <;> cases h; simp [loadByte, memReadTx]
  case trStore => split at h <;> cases h; simp [storeByte]
  all_goals rcases pinStep_next _ _ _ h with ⟨_, rfl⟩ | ⟨_, rfl⟩ <;> simp [selectSlave, deselectSlave]

/-! ### The step of the machine -/

/-- Everything a step can be: a step of the sequencer, or a move of the outside world that the engine lets happen. -/
theorem step_cases (s t : State) (h : step s = .next t) :
    tick s = .next t ∨
      ∃ m rest, s.env = m :: rest ∧ (needsIdle m = false ∨ s.seq = .idle) ∧
        takeInput m { s with env := rest } = .next t := by
  rcases he : s.env with - | ⟨m, rest⟩
  · rw [step_nil s he] at h
    exact .inl h
  · by_cases hm : needsIdle m = true ∧ s.seq ≠ .idle
    · rw [step_waits s m rest he hm.1 hm.2] at h
      exact .inl h
    · have ok : needsIdle m = false ∨ s.seq = .idle := by
        by_cases h1 : needsIdle m = true
        · exact .inr (by by_contra h2; exact hm ⟨h1, h2⟩)
        · exact .inl (by simpa using h1)
      rw [step_takes s m rest he ok] at h
      exact .inr ⟨m, rest, rfl, ok, h⟩

end Sys2Proof.Machine
end

