-- ==== Sys2Proof/Laws/PerInstr.lean ====
section
/-! SUPPORT. One lemma per command: the family `Opcode`, about the operation code of the command's word (R80, R81). -/

namespace Sys2Proof.Laws.Opcode

/-- The operation codes of R81. -/
def code : Instr → Byte
  | .init _ _ _ _ => 0x01
  | .txbit _ => 0x02
  | .rxbit => 0x03
  | .xfer _ => 0x04
  | .trans _ => 0x05

/-- The encoded word carries the command's operation code in `cmd[39:32]`. -/
def Statement (i : Instr) : Prop := opcOf (encode i) = code i

/-- The upper eight bits of a word put together from an operation code and an operand field. -/
theorem opcOf_append (opc : Byte) (arg : BitVec 32) : opcOf (opc ++ arg) = opc := by
  apply BitVec.eq_of_getLsbD_eq
  intro i hi
  simp only [opcOf, BitVec.getLsbD_extractLsb', hi, decide_true, Bool.true_and]
  rw [BitVec.getLsbD_append, if_neg (by omega), Nat.add_sub_cancel_left]

theorem init (mosi miso sck ss : Pin) : Statement (.init mosi miso sck ss) := opcOf_append _ _

theorem txbit (bit : Level) : Statement (.txbit bit) := opcOf_append _ _

theorem rxbit : Statement .rxbit := opcOf_append _ _

theorem xfer (txByte : Byte) : Statement (.xfer txByte) := opcOf_append _ _

theorem trans (length : Len) : Statement (.trans length) := opcOf_append _ _

end Sys2Proof.Laws.Opcode
end

