-- ==== Sys2Proof/Tests/Slice0.lean ====
section
/-! SUPPORT. Small tests with expected results from the spec's own tables and vectors (spec/95_test_vectors.md, cited by their
names), and for every statement with hypotheses a concrete case that meets them. -/

namespace Sys2Proof.Tests

open Sys2Proof.Machine

/-! ### The state the vectors start from -/

/-- The build of the vectors: 8 bytes, two buffers, every pin valid (95_test_vectors.md section 0). -/
def build8 : Build := { maxBufferSize := 8, bufAlias := false, validPins := BitVec.allOnes 256 }

/-- The machine after reset, in that build. -/
def fresh : State := { State.reset with build := build8 }

/-- The machine after `INIT 0, 1, 2, 3` (V-I1), its trace set aside. -/
def idleBus : State :=
  { fresh with
    cfg := { mosi := 0, miso := 1, sck := 2, ss := 3 }, ctxValid := true, pins := [(0, false), (2, false), (3, true)] }

/-- The same with a MISO source. -/
def withMiso (source : MisoSource) : State := { idleBus with misoSource := source }

/-- The machine inside `TRANS 1` with `TX[0] = 0x80` and MISO low (V-T2), at a position with SCK at a level. -/
def inFrame (q : Seq) (sck : Level) : State :=
  { idleBus with
    seq := q, op := .trans, tsm := .selected, len := 1, idx := 0, bitpos := 7, txb := 0x80, rxb := 0x00,
    misoSource := .const false, tx := [(0, 0x80)], pins := [(0, false), (2, sck), (3, false)] }

/-- Whether an outcome is a next state with a property. -/
def nextHas (o : Host.Outcome State Fault Refusal) (p : State → Bool) : Bool :=
  match o with
  | .next t => p t
  | .fault _ => false
  | .refused _ => false

/-- Whether an outcome is a fault with a name. -/
def faultsWith (o : Host.Outcome State Fault Refusal) (r : Fault) : Bool :=
  match o with
  | .next _ => false
  | .fault q => q == r
  | .refused _ => false

/-! ### WellFormed: each check refuses an ill-formed term -/

theorem test_wellformed_word_opcode_zero : wordWellFormed 0x0000000000 = false := by decide
theorem test_wellformed_word_opcode_six : wordWellFormed 0x0600000000 = false := by decide
theorem test_wellformed_word_txbit : wordWellFormed 0x0200000002 = false := by decide
theorem test_wellformed_word_rxbit : wordWellFormed 0x0300000001 = false := by decide
theorem test_wellformed_word_xfer : wordWellFormed 0x0400000100 = false := by decide
theorem test_wellformed_word_trans : wordWellFormed 0x05FFFFFFFF = true := by decide

theorem test_contract_collision : Instr.inContract build8 (.init 3 1 2 3) = false := by decide
theorem test_contract_invalid_pin :
    Instr.inContract { build8 with validPins := 0b1111#256 } (.init 0 1 2 4) = false := by decide
theorem test_contract_holds : Instr.inContract build8 (.init 0 1 2 3) = true := by decide

/-! ### Decoding: words written out bit by bit from the fields of R80 to R82 -/

theorem test_decode_init :
    decode 0b00000001_00000100_00000111_00000110_00000101#40 = .command (.init 5 6 7 4) := by decide
theorem test_decode_init_largest :
    decode 0b00000001_11111100_11111101_11111110_11111111#40 = .command (.init 255 254 253 252) := by decide
theorem test_decode_txbit : decode 0b00000010_00000000_00000000_00000000_00000001#40 = .command (.txbit true) := by decide
theorem test_decode_rxbit : decode 0b00000011_00000000_00000000_00000000_00000000#40 = .command .rxbit := by decide
theorem test_decode_xfer : decode 0b00000100_00000000_00000000_00000000_10100101#40 = .command (.xfer 0xA5) := by decide
theorem test_decode_trans :
    decode 0b00000101_10000000_00000000_00000001_00000010#40 = .command (.trans 0x80000102) := by decide
theorem test_decode_reserved_top_bit : decode 0x0280000000 = .invalid .txbitOperand := by decide
theorem test_decode_reserved_opcode : decode 0xFF00000000 = .invalid (.opcode 0xFF) := by decide
theorem test_encode_init : encode (.init 5 6 7 4) = 0x0104070605 := by decide
theorem test_encode_trans : encode (.trans 9) = 0x0500000009 := by decide
theorem test_table_word : decodeTableWord 40 0x0103020100 = some (.init 0 1 2 3) := by decide

/-! ### One command each -/

/-- V-I1. -/
theorem test_init :
    nextHas (exec (.init 0 1 2 3) fresh) (fun t =>
      t.trace == [.pinWrite 0 false, .pinWrite 2 false, .pinWrite 3 true] && t.pins == [(0, false), (2, false), (3, true)] &&
      respWord t == 0x000#10 && t.ctxValid && t.mark == none) = true := by decide

/-- V-I4: pins 0 and 3 of the arguments collide, the writes are the same, pin 3 ends high, and the run is marked. -/
theorem test_init_colliding :
    nextHas (exec (.init 3 1 2 3) fresh) (fun t =>
      t.trace == [.pinWrite 3 false, .pinWrite 2 false, .pinWrite 3 true] && t.pins == [(2, false), (3, true)] &&
      t.mark == some .pinsCollide) = true := by decide

/-- V-B1. -/
theorem test_txbit :
    nextHas (exec (.txbit true) idleBus) (fun t =>
      t.trace == [.pinWrite 0 true, .pinWrite 2 true, .pinWrite 2 false] && t.pins == [(0, true), (2, false), (3, true)] &&
      respWord t == 0x000#10) = true := by decide

/-- V-E1. -/
theorem test_txbit_without_context :
    nextHas (exec (.txbit true) fresh) (fun t => respWord t == 0x200#10 && t.trace == [] && !t.ctxValid) = true := by decide

/-- V-B4. -/
theorem test_rxbit :
    nextHas (exec .rxbit (withMiso (.const true))) (fun t =>
      t.trace == [.pinWrite 2 true, .pinRead 1 true, .pinWrite 2 false] && respWord t == 0x001#10) = true := by decide

/-- V-B6, second command: the source is a wire from MOSI, which TXBIT left high. -/
theorem test_rxbit_loopback :
    nextHas (exec .rxbit { withMiso .loopback with pins := [(0, true), (2, false), (3, true)] })
      (fun t => respWord t == 0x001#10) = true := by decide

/-- V-X1: MOSI carries `0xA5` from bit 7 down, the reads make `0xAA`. -/
theorem test_xfer :
    nextHas (exec (.xfer 0xA5) (withMiso (.list [true, false, true, false, true, false, true, false]))) (fun t =>
      t.respData == 0xAA &&
      t.trace.filterMap (fun e => match e with
        | .pinWrite 0 l => some l
        | _ => none) == [true, false, true, false, false, true, false, true]) = true := by decide

/-- V-X5: the first read is bit 7. -/
theorem test_xfer_first_read_is_bit_seven :
    nextHas (exec (.xfer 0x01) (withMiso (.list [true, false, false, false, false, false, false, false])))
      (fun t => t.respData == 0x80) = true := by decide

/-- V-T9, one byte: `RX[0]` is stored, `RX[1]` keeps the host's `0x11`, `TX` is unchanged, the first and the last events name SS. -/
theorem test_trans :
    nextHas (exec (.trans 1) { withMiso (.const false) with tx := [(0, 0xAB)], rx := [(0, 0x11), (1, 0x11)] }) (fun t =>
      t.rx == [(0, 0x00), (1, 0x11)] && t.tx == [(0, 0xAB)] && t.trace.length == 36 &&
      t.trace.head? == some (.pinWrite 3 false) && t.trace.getLast? == some (.pinWrite 3 true)) = true := by decide

/-- V-T7: `MAX + 1` fails with an empty trace. -/
theorem test_trans_overlong :
    nextHas (exec (.trans 9) idleBus) (fun t => respWord t == 0x100#10 && t.trace == [] && t.pins == idleBus.pins) = true := by
  decide

/-- V-E5: the context check comes before the bounds check. -/
theorem test_check_order :
    nextHas (exec (.trans 0xFFFFFFFF) fresh) (fun t => respWord t == 0x200#10) = true := by decide

/-- R199 (a), R175: TRANS on a byte the host has written leaves the run unmarked, on one it has not it runs and marks it. -/
theorem test_trans_unwritten_byte :
    nextHas (exec (.trans 1) { withMiso (.const false) with tx := [(0, 0xAB)] }) (fun t => t.mark == none) = true ∧
    nextHas (exec (.trans 2) { withMiso (.const false) with tx := [(0, 0xAB)] })
      (fun t => t.mark == some .txNotWritten && respWord t == 0x000#10 && t.rx == [(0, 0x00), (1, 0x00)]) = true := by decide

/-- R191: after reset the old MOSI pin still shows the bit TXBIT left on it, although the MISO source is low. -/
theorem test_look_after_reset :
    nextHas (step { withMiso (.const false) with pins := [(0, true), (2, false), (3, true)], env := [.reset] })
      (fun t => inspectPin 0 false t) = true := by decide

/-- R34: inside a context a look at the MISO pin sees a constant source. -/
theorem test_look_at_miso : inspectPin 1 false (withMiso (.const true)) = true := by decide

/-- R68: the host reads `TX[0]` in `IDLE` and has no such read in a frame. -/
theorem test_host_read :
    hostReadTx 0 { idleBus with tx := [(0, 0x80)] } = some 0x80 ∧ hostReadTx 0 (inFrame .xbSetup false) = none := by decide

/-- R68, R69: a host write to `RX[0]` goes to its own array in a build with two, and to the one array in a build with one. -/
theorem test_host_write_rx :
    nextHas (step { idleBus with tx := [(0, 0x80)], env := [.writeRx 0 0x5A] })
      (fun t => t.tx == [(0, 0x80)] && t.rx == [(0, 0x5A)]) = true ∧
    nextHas (step { idleBus with build := { build8 with bufAlias := true }, tx := [(0, 0x80)], env := [.writeRx 0 0x5A] })
      (fun t => t.tx == [(0, 0x5A)] && t.rx == []) = true := by decide

/-- R6, R69: a build that says nothing of `BUF_ALIAS` has two buffers, and so has the machine after reset. -/
theorem test_default_build :
    ({ maxBufferSize := 8, validPins := 0 } : Build).bufAlias = false ∧ State.reset.build.bufAlias = false := by decide

/-- V-R3: reset after the first rising edge of a frame leaves the frame open and the clock high, and posts no response. -/
theorem test_reset_in_frame :
    nextHas (step { inFrame .xbSample true with env := [.reset] }) (fun t =>
      t.pins == [(0, false), (2, true), (3, false)] && t.seq == .idle && !t.respValid && !t.ctxValid) = true := by decide

/-- The placed word of `withFetchWord` runs as the next step. -/
theorem test_fetch_word :
    nextHas (step (fresh.withFetchWord 40 0x0103020100)) (fun t => t.ctxValid && t.env == []) = true := by decide

/-! ### Witnesses: every statement's hypotheses can be met -/

/-- The invariant at the idle bus. -/
theorem witness_invariant_idle : Inv idleBus :=
  ⟨by decide, by decide, by decide, by decide, by decide, by decide, by decide, by decide, by decide, by decide⟩

/-- The invariant inside a frame with SCK low, before the set-up. -/
theorem witness_invariant_setup : Inv (inFrame .xbSetup false) :=
  ⟨by decide, by decide, by decide, by decide, by decide, by decide, by decide, by decide, by decide, by decide⟩

/-- The invariant inside a frame with SCK high, before the sample. -/
theorem witness_invariant_sample : Inv (inFrame .xbSample true) :=
  ⟨by decide, by decide, by decide, by decide, by decide, by decide, by decide, by decide, by decide, by decide⟩

/-- The invariant inside a frame with SCK low, before the rising edge. -/
theorem witness_invariant_rise : Inv (inFrame .xbRise false) :=
  ⟨by decide, by decide, by decide, by decide, by decide, by decide, by decide, by decide, by decide, by decide⟩

/-- The invariant inside a frame, before the load. -/
theorem witness_invariant_load : Inv (inFrame .trLoad false) :=
  ⟨by decide, by decide, by decide, by decide, by decide, by decide, by decide, by decide, by decide, by decide⟩

/-- The invariant before a context exists. -/
theorem witness_invariant_fresh : Inv fresh :=
  ⟨by decide, by decide, by decide, by decide, by decide, by decide, by decide, by decide, by decide, by decide⟩

theorem witness_EncodeWritesBackEveryDecodedWord : decode 0x05FFFFFFFF = .command (.trans 0xFFFFFFFF) := by decide

theorem witness_PatternRowsSelectTheirOwnCommand :
    (patterns.all fun row => row.selects row.pat) = true ∧ decode 0x0300000000 = .command .rxbit := by decide

theorem witness_StepRunsTheCalledCommand :
    ({ idleBus with env := [.call 0x0200000001] } : State).seq = .idle ∧ decode 0x0200000001 = .command (.txbit true) := by
  decide

/-- A word for each clause; the bounds at `MAX = 8` and `MAX + 1`. -/
theorem witness_AcceptanceFollowsItsTable :
    idleBus.seq = .idle ∧ idleBus.ctxValid = true ∧ fresh.ctxValid = false ∧
    decode 0x0000000000 = .invalid (.opcode 0x00) ∧ decode 0x0103020100 = .command (.init 0 1 2 3) ∧
    decode 0x0200000001 = .command (.txbit true) ∧ (Instr.txbit true).needsContext = true ∧
    decode 0x0300000000 = .command .rxbit ∧ decode 0x04000000A5 = .command (.xfer 0xA5) ∧
    decode 0x0500000009 = .command (.trans 9) ∧ idleBus.build.max < (9#32).toNat ∧
    decode 0x0500000008 = .command (.trans 8) ∧ (8#32).toNat ≤ idleBus.build.max := by decide

theorem witness_BusyEngineKeepsCommandsWaiting :
    (inFrame .xbSetup false).seq ≠ .idle ∧
    nextHas (tick { inFrame .xbSetup false with env := [.call 0x0300000000] }) (fun t => t.env == [.call 0x0300000000]) = true := by
  decide

theorem witness_IdleEngineWithoutCommandStaysAsItIs : idleBus.seq = .idle ∧ idleBus.env = [] := by decide

theorem witness_InitDrivesTheIdleBus :
    idleBus.seq = .idle ∧ idleBus.pinAck = true ∧ pinsDistinct 5 6 7 4 = true ∧ pinsDistinct 3 1 2 3 = false := by decide

theorem witness_InitFrame :
    nextHas (exec (.init 5 6 7 4) idleBus) (fun t => Memory.read t.pins 0 == Memory.read idleBus.pins 0) = true := by decide

theorem witness_InitMarksARunOutsideTheContract :
    fresh.seq = .idle ∧ fresh.pinAck = true ∧ fresh.mark = none ∧ Instr.inContract fresh.build (.init 0 1 2 3) = true ∧
    Instr.inContract fresh.build (.init 3 1 2 3) = false := by decide

/-- TxbitClocksOneBitOut and RxbitReturnsTheSampledBit: an engine that is ready, with each kind of source. -/
theorem witness_TxbitAndRxbit :
    ready idleBus = true ∧ idleBus.cfg.mosi ≠ idleBus.cfg.sck ∧ cfgDistinct idleBus = true ∧
    ready (withMiso (.list [true, false])) = true ∧ ready (withMiso (.const true)) = true := by decide

theorem witness_TxbitFrame : nextHas (exec (.txbit false) idleBus) (fun t => Memory.read t.pins 3 == some true) = true := by
  decide

theorem witness_RxbitFrame :
    nextHas (exec .rxbit (withMiso (.const false))) (fun t => Memory.read t.pins 0 == some false) = true := by decide

theorem witness_TwoRxbitsReadInOrder :
    ready (withMiso (.list [true, false])) = true ∧ (withMiso (.list [true, false])).misoSource = .list (true :: false :: []) := by
  decide

theorem witness_XferExchangesOneByte :
    ready (withMiso (.list (List.replicate 8 true ++ [false]))) = true ∧ (List.replicate 8 true).length = 8 ∧
    ready (withMiso (.const true)) = true ∧ (withMiso (.const true)).misoSource = .const true ∧
    idleBus.cfg.mosi ≠ idleBus.cfg.sck := by decide

theorem witness_XferLoopbackReturnsTheByteSent :
    ready (withMiso .loopback) = true ∧ (withMiso .loopback).misoSource = .loopback ∧ pinsDefined (withMiso .loopback) = true := by
  decide

theorem witness_XferFrame :
    nextHas (exec (.xfer 0x96) (withMiso .loopback)) (fun t => Memory.read t.pins 3 == some true) = true := by decide

/-- The lowest and the highest position, into a clear bit. -/
theorem witness_BitsAreExtractedAndInsertedInPlace :
    bitOf 0x7E 0 = false ∧ bitOf 0x7E 7 = false ∧ setBit 0x7E 0 true = 0x7F ∧ setBit 0x7E 7 true = 0xFE := by decide

theorem witness_OverlongTransFailsWithoutEffect :
    idleBus.seq = .idle ∧ idleBus.ctxValid = true ∧ idleBus.build.max < (9#32).toNat ∧
    idleBus.build.max < (0xFFFFFFFF#32).toNat := by decide

/-- The lengths 0, 1 and `MAX`, and a list source of exactly the samples. -/
theorem witness_TransExchangesOneFrame :
    ready idleBus = true ∧ (0#32).toNat ≤ idleBus.build.max ∧ (1#32).toNat ≤ idleBus.build.max ∧
    (8#32).toNat ≤ idleBus.build.max ∧ cfgDistinct idleBus = true ∧ 0 < (1#32).toNat ∧
    [List.replicate 8 true].length = (1#32).toNat ∧ (∀ x ∈ [List.replicate 8 true], x.length = 8) ∧
    (withMiso (.list (List.replicate 8 true))).misoSource = .list ([List.replicate 8 true].flatten ++ []) := by decide

theorem witness_TransFrame :
    nextHas (exec (.trans 1) { withMiso (.const false) with rx := [(1, 0x11)] }) (fun t => Memory.read t.rx 1 == some 0x11) = true := by
  decide

theorem witness_TransFrame_aliased :
    nextHas (exec (.trans 1)
      { withMiso (.const true) with build := { build8 with bufAlias := true }, tx := [(0, 0xC3), (1, 0x01)] })
      (fun t => t.tx == [(0, 0xFF), (1, 0x01)] && t.rx == []) = true := by decide

/-- A byte never written, and none such, on an engine that is ready. -/
theorem witness_TransMarksARunOnUnwrittenBytes :
    ready { idleBus with tx := [(0, 0x80)] } = true ∧ (1#32).toNat ≤ idleBus.build.max ∧ (2#32).toNat ≤ idleBus.build.max ∧
    (∀ a, a < (1#32).toNat → Memory.read [(0, (0x80 : Byte))] a ≠ none) ∧ 1 < (2#32).toNat ∧
    Memory.read [(0, (0x80 : Byte))] 1 = none := by decide

theorem witness_EmptyTransIsAnEmptyFrame :
    ready idleBus = true ∧ ready { idleBus with build := { build8 with maxBufferSize := 0 } } = true := by decide

theorem witness_AliasedTransExchangesInPlace :
    ready { withMiso (.list (List.replicate 8 true)) with build := { build8 with bufAlias := true } } = true ∧
    (1#32).toNat ≤ ({ build8 with bufAlias := true } : Build).max ∧
    [List.replicate 8 true].length = (1#32).toNat ∧ (∀ x ∈ [List.replicate 8 true], x.length = 8) ∧
    (withMiso (.list (List.replicate 8 true))).misoSource = .list ([List.replicate 8 true].flatten ++ []) := by decide

theorem witness_CommandsWithoutContextAreRefused :
    fresh.seq = .idle ∧ fresh.ctxValid = false ∧ Instr.rxbit.needsContext = true := by decide

theorem witness_AcceptanceChecksComeInOrder :
    fresh.seq = .idle ∧ fresh.ctxValid = false ∧ idleBus.ctxValid = true ∧ decode 0x0600000000 = .invalid (.opcode 0x06) ∧
    decode 0x05FFFFFFFF = .command (.trans 0xFFFFFFFF) ∧ (Instr.trans 0xFFFFFFFF).needsContext = true ∧
    idleBus.build.max < (0xFFFFFFFF#32).toNat := by decide

theorem witness_RefusedInputsMarkTheRun :
    ({ fresh with env := [.call 0x0600000000] } : State).seq = .idle ∧ decode 0x0600000000 = .invalid (.opcode 0x06) ∧
    decode 0x0300000000 = .command .rxbit ∧ Instr.rxbit.needsContext = true ∧ fresh.ctxValid = false := by decide

theorem witness_FailuresAndRefusalsAreTheListedOnes :
    nextHas (exec (.trans 9) idleBus) (fun t => t.respValid && t.respStatus == .failLength) = true ∧
    nextHas (exec .rxbit fresh) (fun t => t.respValid && t.respStatus == .refused) = true ∧
    nextHas (exec (.txbit true) idleBus) (fun t => t.respValid && t.respStatus == .ok) = true := by decide

theorem witness_MarksStayAndComeOnlyFromAcceptance :
    nextHas (step { fresh with mark := some .noContext, env := [.call 0x0000000000] }) (fun t => t.mark == some .noContext) = true ∧
    nextHas (step { fresh with env := [.present 0x0000000000] }) (fun t => t.mark == some .reservedEncoding) = true := by decide

/-- InitStepsFollowTheirTable, BitStepsFollowTheirTable, BitCycleStepsFollowTheirTable: a state at a position of each, its Pin
Interface answering. -/
theorem witness_StepTables :
    (inFrame .xbFall true).pinAck = true ∧ (inFrame .xbFall true).bitpos ≠ 0 ∧ ({ inFrame .xbFall true with bitpos := 0 } : State).bitpos = 0 ∧
    (inFrame .xbFall true).op = .trans ∧ ({ inFrame .xbFall true with op := .xfer } : State).op = .xfer ∧
    ({ idleBus with seq := .initMosi } : State).pinAck = true ∧ ({ idleBus with seq := .tbSetup } : State).pinAck = true := by
  decide

/-- TR_SELECT with `len` 0 and not 0, TR_LOAD, TR_STORE in a build with two arrays and with one, TR_DESELECT. -/
theorem witness_TransactionStepsFollowTheirTable :
    nextHas (tick { inFrame .trSelect false with len := 0 }) (fun t => t.seq == .trDeselect) = true ∧
    nextHas (tick (inFrame .trSelect false)) (fun t => t.seq == .trLoad && t.trace == [.pinWrite 3 false]) = true ∧
    (inFrame .trLoad false).pinAck = true ∧ (inFrame .trLoad false).idx.toNat < (inFrame .trLoad false).build.max ∧
    (inFrame .trStore false).build.bufAlias = false ∧
    nextHas (tick (inFrame .trStore false)) (fun t => t.tx == [(0, 0x80)] && t.rx == [(0, 0x00)] && t.seq == .trDeselect) = true ∧
    nextHas (tick { inFrame .trStore false with build := { build8 with bufAlias := true }, len := 2 })
      (fun t => t.tx == [(0, 0x00)] && t.rx == [] && t.seq == .trLoad) = true ∧
    nextHas (tick (inFrame .trDeselect false)) (fun t => t.seq == .idle && t.trace == [.pinWrite 3 true]) = true := by decide

theorem witness_UnansweredPinRequestHoldsTheEngine :
    ({ inFrame .xbRise false with pinAck := false } : State).pinAck = false ∧
    pinRequest { inFrame .xbRise false with pinAck := false } ≠ none ∧ ({ idleBus with pinAck := false } : State).seq = .idle := by
  decide

theorem witness_BusyEngineMakesOneEventAStep :
    Inv (inFrame .xbSetup false) ∧ (inFrame .xbSetup false).seq ≠ .idle ∧ (inFrame .xbSetup false).pinAck = true :=
  ⟨witness_invariant_setup, by decide, by decide⟩

theorem witness_OnlyNamedStepsWriteContextFrameAndSs :
    Instr.rxbit.needsContext = true ∧ cfgDistinct (inFrame .trDeselect false) = true ∧
    nextHas (tick (inFrame .trDeselect false)) (fun t => t.tsm == .idle && t.trace == [.pinWrite 3 true]) = true := by decide

/-- A step that goes on, and one that faults, both with a source that is no wire from MOSI. -/
theorem witness_OutputLevelsDoNotFeedBack :
    (inFrame .xbSample true).misoSource ≠ .loopback ∧
    nextHas (tick (inFrame .xbSample true)) (fun t => t.trace == [.pinRead 1 false]) = true ∧
    faultsWith (tick { inFrame .xbFall true with op := .init, bitpos := 0 }) .noTransition = true := by decide

/-- SequencerEndsWhereTheWholeCommandEnds, StartedCommandEndsAtItsLastStep: commands that start, with the counts of R203 at `n = 0`. -/
theorem witness_StartedCommands :
    idleBus.seq = .idle ∧ idleBus.pinAck = true ∧ (accept (.trans 0) idleBus).seq ≠ .idle ∧
    (accept (.trans 8) idleBus).seq ≠ .idle ∧ (accept (.xfer 0x80) idleBus).seq ≠ .idle ∧
    stepsAfterAcceptance (.trans 0) = 2 ∧ stepsAfterAcceptance (.trans 8) = 274 := by decide

theorem witness_CommandsMakeTheCountedEvents :
    nextHas (exec .rxbit (withMiso (.const true))) (fun t => cfgDistinct t && eventCounts t.trace == [2, 1, 0, 0]) = true := by decide

theorem witness_CommandsTouchOnlyTheirPins :
    nextHas (exec .rxbit (withMiso (.const true))) (fun t => cfgDistinct t && t.trace.contains (.pinRead 1 true)) = true := by decide

/-- With a context, and without one, where pin 0 is the number `cfg.miso` happens to hold. -/
theorem witness_PinReadsReturnTheLastSetLevel :
    pinsDefined idleBus = true ∧ idleBus.build.isValid 0 = true ∧ (0 : Pin) ≠ idleBus.cfg.miso ∧
    driven 0 idleBus = some false ∧ (255 : Pin) ≠ 0 ∧ (255 : Pin) ≠ idleBus.cfg.miso ∧ idleBus.build.isValid 255 = true ∧
    pinsDefined fresh = true ∧ fresh.build.isValid 0 = true ∧ fresh.ctxValid = false ∧ fresh.cfg.miso = 0 := by decide

theorem witness_ResetLeavesEveryPinAtItsDrivenLevel :
    ({ idleBus with env := [.reset] } : State).env = .reset :: [] ∧ pinsDefined { idleBus with env := [.reset] } = true ∧
    ({ idleBus with env := [.reset] } : State).build.isValid 3 = true ∧ driven 3 { idleBus with env := [.reset] } = some true := by
  decide

theorem witness_PortsShowWhatTheStepDoes :
    nextHas (tick (inFrame .trLoad false)) (fun t => t.trace == [.txRead 0 0x80]) = true ∧
    nextHas (tick (inFrame .trStore false)) (fun t => t.trace == [.rxWrite 0 0x00]) = true := by decide

/-- The last index of the buffers and the first one outside, on an idle engine; and a busy one. -/
theorem witness_HostWritesBuffersOnlyWhileIdle :
    ({ idleBus with env := [.writeTx 7 0x5A] } : State).seq = .idle ∧ (7#32).toNat < idleBus.build.max ∧
    idleBus.build.max ≤ (8#32).toNat ∧ (inFrame .trLoad false).seq ≠ .idle ∧
    ({ idleBus with env := [.writeRx 7 0x5A] } : State).seq = .idle ∧
    ({ idleBus with env := [.writeRx 7 0x5A] } : State).build.bufAlias = false ∧
    nextHas (step { idleBus with env := [.writeRx 7 0x5A] }) (fun t => t.tx == [] && t.rx == [(7, 0x5A)]) = true ∧
    nextHas (step { idleBus with build := { build8 with bufAlias := true }, env := [.writeRx 7 0x5A] })
      (fun t => t.tx == [(7, 0x5A)] && t.rx == []) = true ∧
    faultsWith (step { idleBus with env := [.writeRx 8 0x5A] }) (.rxIndex 8) = true := by decide

/-- The last index of the buffers and the first one outside, on an idle engine; a busy one; a build with one array. -/
theorem witness_HostReadsBuffersOnlyWhileIdle :
    idleBus.seq = .idle ∧ (7#32).toNat < idleBus.build.max ∧ idleBus.build.max ≤ (8#32).toNat ∧
    (inFrame .trLoad false).seq ≠ .idle ∧ ({ build8 with bufAlias := true } : Build).bufAlias = true := by decide

theorem witness_ResetTouchesNoPinAndNoBuffer :
    ({ inFrame .xbSample true with env := [.reset] } : State).env = .reset :: [] := by decide

theorem witness_ContextComesFromInitAndGoesWithReset :
    nextHas (step { idleBus with env := [.reset] }) (fun t => idleBus.ctxValid && !t.ctxValid) = true ∧
    nextHas (step { fresh with env := [.present 0x0103020100] }) (fun t => !fresh.ctxValid && t.ctxValid) = true := by decide

theorem witness_NoStepChangesTheBuild :
    nextHas (step { idleBus with env := [.writeRx 0 0x11] }) (fun t => t.build == build8) = true := by decide

theorem witness_EveryStepKeepsTheInvariant :
    Inv (inFrame .xbSetup false) ∧ nextHas (step (inFrame .xbSetup false)) (fun t => t.seq == .xbRise) = true :=
  ⟨witness_invariant_setup, by decide⟩

/-- Each clause: an idle engine with a context, an engine without one, and an open frame. -/
theorem witness_InvariantGivesTheBusRules :
    Inv idleBus ∧ Inv fresh ∧ Inv (inFrame .xbSetup false) ∧ idleBus.seq = .idle ∧ fresh.ctxValid = false ∧
    (inFrame .xbSetup false).ctxValid = true ∧ cfgDistinct (inFrame .xbSetup false) = true ∧
    driven 3 (inFrame .xbSetup false) = some false ∧ (inFrame .xbSetup false).op = .trans ∧
    (inFrame .xbSetup false).seq ≠ .idle ∧ (inFrame .xbSetup false).mark = none :=
  ⟨witness_invariant_idle, witness_invariant_fresh, witness_invariant_setup, by decide, by decide, by decide, by decide,
    by decide, by decide, by decide, by decide⟩

/-- Each clause: a step that writes MOSI, one that reads MISO, one that writes SCK. -/
theorem witness_ModeZeroEdgesAreKept :
    Inv (inFrame .xbSetup false) ∧ Inv (inFrame .xbSample true) ∧ Inv (inFrame .xbRise false) ∧
    nextHas (tick (inFrame .xbSetup false)) (fun t => t.trace == [.pinWrite 0 true]) = true ∧
    nextHas (tick (inFrame .xbSample true)) (fun t => t.trace == [.pinRead 1 false]) = true ∧
    nextHas (tick (inFrame .xbRise false)) (fun t => t.trace == [.pinWrite 2 true]) = true ∧
    (inFrame .xbSetup false).ctxValid = true ∧ cfgDistinct (inFrame .xbSetup false) = true ∧ (inFrame .xbSetup false).op ≠ .init :=
  ⟨witness_invariant_setup, witness_invariant_sample, witness_invariant_rise, by decide, by decide, by decide, by decide,
    by decide, by decide⟩

theorem witness_OnlyAHostWriteOutsideTheBufferFaults :
    Inv { idleBus with env := [.writeTx 8 0x5A] } ∧
    faultsWith (step { idleBus with env := [.writeTx 8 0x5A] }) (.txIndex 8) = true :=
  ⟨⟨by decide, by decide, by decide, by decide, by decide, by decide, by decide, by decide, by decide, by decide⟩, by decide⟩

end Sys2Proof.Tests
end

/-! ## The decoder reads back the encoder, and the step that runs a called word (R85, R11, R63) -/

namespace Sys2Proof.Machine

/-- A word of operation code `opc` and operand field `arg`, by the decoder's arms (R82, R85). -/
theorem decode_append (opc : Byte) (arg : BitVec 32) :
    decode (opc ++ arg : CmdWord) =
      if opc = 0x01 then
        .command (.init (arg.extractLsb' 0 8) (arg.extractLsb' 8 8) (arg.extractLsb' 16 8) (arg.extractLsb' 24 8))
      else if opc = 0x02 then
        if arg.extractLsb' 1 31 = 0 then .command (.txbit (arg.getLsbD 0)) else .invalid .txbitOperand
      else if opc = 0x03 then if arg = 0 then .command .rxbit else .invalid .rxbitOperand
      else if opc = 0x04 then
        if arg.extractLsb' 8 24 = 0 then .command (.xfer (arg.extractLsb' 0 8)) else .invalid .xferOperand
      else if opc = 0x05 then .command (.trans arg)
      else .invalid (.opcode opc) := by
  have field (start len : Nat) (h : start + len ≤ 32) :
      (opc ++ arg : CmdWord).extractLsb' start len = arg.extractLsb' start len :=
    BitVec.extractLsb'_append_eq_of_add_le h
  have low : (opc ++ arg : CmdWord).getLsbD 0 = arg.getLsbD 0 := by
    rw [BitVec.getLsbD_append, if_pos (by decide)]
  have whole : (opc ++ arg : CmdWord).extractLsb' 0 32 = arg := BitVec.extractLsb'_append_eq_right
  rw [decode, Laws.Opcode.opcOf_append, whole, low, field 0 8 (by decide), field 8 8 (by decide),
    field 16 8 (by decide), field 24 8 (by decide), field 1 31 (by decide), field 8 24 (by decide)]

/-- The operand field of INIT carries the four pins, MOSI lowest (R82). -/
theorem extractLsb'_pins (mosi miso sck ss : Pin) :
    (ss ++ (sck ++ (miso ++ mosi))).extractLsb' 0 8 = mosi ∧ (ss ++ (sck ++ (miso ++ mosi))).extractLsb' 8 8 = miso ∧
    (ss ++ (sck ++ (miso ++ mosi))).extractLsb' 16 8 = sck ∧ (ss ++ (sck ++ (miso ++ mosi))).extractLsb' 24 8 = ss := by
  refine ⟨?_, ?_, ?_, BitVec.extractLsb'_append_eq_left⟩
  · rw [BitVec.extractLsb'_append_eq_of_add_le (by decide), BitVec.extractLsb'_append_eq_of_add_le (by decide),
      BitVec.extractLsb'_append_eq_right]
  · rw [BitVec.extractLsb'_append_eq_of_add_le (by decide), BitVec.extractLsb'_append_eq_of_add_le (by decide),
      BitVec.extractLsb'_append_eq_left]
  · rw [BitVec.extractLsb'_append_eq_of_add_le (by decide), BitVec.extractLsb'_append_eq_left]

/-- The decoder reads back every encoded command (R85). -/
theorem decode_encode (i : Instr) : decode (encode i) = .command i := by
  cases i with
  | init mosi miso sck ss =>
    obtain ⟨hmosi, hmiso, hsck, hss⟩ := extractLsb'_pins mosi miso sck ss
    exact (decode_append 0x01 _).trans (by rw [hmosi, hmiso, hsck, hss]; rfl)
  | txbit bit => cases bit <;> decide
  | rxbit => decide
  | xfer txByte =>
    have upper : (txByte.setWidth 32).extractLsb' 8 24 = 0 := by ext j hj; simp
    have lower : (txByte.setWidth 32).extractLsb' 0 8 = txByte := by
      rw [BitVec.extractLsb'_setWidth_of_le (by decide), BitVec.extractLsb'_eq_self]
    exact (decode_append 0x04 _).trans (by rw [upper, lower]; rfl)
  | trans length => exact decode_append 0x05 length

/-- The table's word of an encoded command is the encoded word itself (R80). -/
theorem tableWord_encode (i : Instr) : tableWord 40 (encode i).toNat = encode i := by
  rw [tableWord, Nat.mod_eq_of_lt (encode i).isLt, BitVec.ofNat_toNat, BitVec.setWidth_eq]

/-- A step of an idle engine whose next move calls a word that decodes (R11, R63). -/
theorem step_call (s : State) (w : CmdWord) (rest : List Input) (i : Instr) (hs : s.seq = .idle)
    (he : s.env = .call w :: rest) (hw : decode w = .command i) : step s = exec i { s with env := rest } := by
  rw [step_takes s _ rest he (.inr hs), takeInput, callWord, hw]

/-- Settles O7: the called move is taken, its word decoded, and the command executed; the word `withFetchWord` places is
such a call on an idle engine. -/
theorem stepRunsTheCalledCommand : Obligations.StepRunsTheCalledCommand := by
  refine ⟨step_call, fun s i => ?_⟩
  have placed : decode (tableWord 40 (encode i).toNat) = .command i := by rw [tableWord_encode, decode_encode]
  exact step_call (s.withFetchWord 40 (encode i).toNat) _ s.env i rfl rfl placed

end Sys2Proof.Machine

/-! ## The sequencer position

The whole command keeps `seq` while its events happen, the sequencer moves it with each one. What an event does to the rest
of the state does not depend on it. -/

namespace Sys2Proof.Machine

/-- The state at another sequencer position. -/
def moveTo (q : Seq) (s : State) : State := { s with seq := q }

section
variable (q : Seq) (s : State)

@[simp] theorem moveTo_seq : (moveTo q s).seq = q := rfl
@[simp] theorem moveTo_build : (moveTo q s).build = s.build := rfl
@[simp] theorem moveTo_pinAck : (moveTo q s).pinAck = s.pinAck := rfl
@[simp] theorem moveTo_idx : (moveTo q s).idx = s.idx := rfl
@[simp] theorem moveTo_len : (moveTo q s).len = s.len := rfl

@[simp] theorem moveTo_moveTo (r : Seq) : moveTo q (moveTo r s) = moveTo q s := rfl

theorem moveTo_self (h : s.seq = q) : moveTo q s = s := by rw [← h, moveTo]

/-! One commuting lemma per event of a command. -/

theorem bitCycle_moveTo (i : BitVec 3) : bitCycle i (moveTo q s) = moveTo q (bitCycle i s) := rfl

/-- A bit cycle writes its position over the one before it (R130). -/
theorem bitCycle_setBitpos (i b : BitVec 3) : bitCycle i { s with bitpos := b } = bitCycle i s := rfl

theorem bitCycles_moveTo (k : Nat) : bitCycles k (moveTo q s) = moveTo q (bitCycles k s) := by
  induction k generalizing s with
  | zero => rfl
  | succ k ih => rw [bitCycles, bitCycle_moveTo, ih, ← bitCycles]

/-- A byte writes every position it is at, so the one it finds does not matter. -/
theorem bitCycles_setBitpos (k : Nat) (b : BitVec 3) : bitCycles (k + 1) { s with bitpos := b } = bitCycles (k + 1) s :=
  congrArg (bitCycles k) (bitCycle_setBitpos s (BitVec.ofNat 3 k) b)

theorem exchangeByte_moveTo : exchangeByte (moveTo q s) = moveTo q (exchangeByte s) := bitCycles_moveTo q s 8

theorem storeByte_moveTo : storeByte (moveTo q s) = moveTo q (storeByte s) := by
  cases hb : s.build.bufAlias <;> simp [moveTo, storeByte, memWriteRx, emit, putRx, putTx, hb]

theorem frameByte_moveTo : frameByte (moveTo q s) = moveTo q (frameByte s) := by
  have load : loadByte (moveTo q s) = moveTo q (loadByte s) := rfl
  rw [frameByte, load, exchangeByte_moveTo, storeByte_moveTo, ← frameByte]

theorem frameBytes_moveTo (k : Nat) : frameBytes k (moveTo q s) = moveTo q (frameBytes k s) := by
  induction k generalizing s with
  | zero => rfl
  | succ k ih => rw [frameBytes, frameByte_moveTo, ih, ← frameBytes]

end

/-! ### What a byte and a frame's byte leave -/

section
variable (s : State)

@[simp] theorem bitCycle_pinAck (i : BitVec 3) : (bitCycle i s).pinAck = s.pinAck := by
  obtain ⟨l, source, draws, e⟩ := bitCycle_spec i s
  rw [e]

@[simp] theorem loadByte_build : (loadByte s).build = s.build := rfl
@[simp] theorem loadByte_idx : (loadByte s).idx = s.idx := rfl
@[simp] theorem loadByte_len : (loadByte s).len = s.len := rfl

/-- A byte ends at position 0 and leaves the command's registers and the world outside as they were (R130). -/
theorem exchangeByte_frame :
    (exchangeByte s).bitpos = 0 ∧ (exchangeByte s).op = s.op ∧ (exchangeByte s).idx = s.idx ∧
    (exchangeByte s).len = s.len ∧ (exchangeByte s).build = s.build := by
  obtain ⟨samples, source, draws, -, e⟩ := exchangeByte_spec s
  rw [e]
  exact ⟨rfl, rfl, rfl, rfl, rfl⟩

/-- A byte of a frame moves the index on and leaves the rest of the command and the world outside as they were (R143). -/
theorem frameByte_frame :
    (frameByte s).idx = s.idx + 1 ∧ (frameByte s).len = s.len ∧ (frameByte s).op = s.op ∧
    (frameByte s).pinAck = s.pinAck ∧ (frameByte s).build = s.build := by
  obtain ⟨samples, source, draws, -, e⟩ := frameByte_spec s
  rw [e]
  exact ⟨rfl, rfl, rfl, rfl, rfl⟩

/-- The byte loop leaves the Pin Interface as it was. -/
theorem frameBytes_pinAck (k : Nat) : (frameBytes k s).pinAck = s.pinAck := by
  induction k generalizing s with
  | zero => rfl
  | succ k ih =>
    obtain ⟨-, -, -, acks, -⟩ := frameByte_frame s
    rw [frameBytes, ih, acks]

end

/-! ### Steps with a pin request that the Pin Interface answers -/

/-- A write and the next position, then the rest. -/
theorem ticks_write (k : Nat) (s : State) {p : Pin} {l : Level} {q : Seq} (h : tick s = writeThen p l q s)
    (hp : s.pinAck = true) : ticks (k + 1) s = ticks k (moveTo q (pinWrite p l s)) :=
  ticks_succ k s _ (h.trans (pinStep_done _ _ hp))

/-- A sample and the next position, then the rest. -/
theorem ticks_sample (k : Nat) (s : State) {i : BitVec 3} {q : Seq} (h : tick s = sampleStep i q s)
    (hp : s.pinAck = true) :
    ticks (k + 1) s = ticks k (moveTo q { (readMiso s).2 with rxb := setBit s.rxb i (readMiso s).1 }) :=
  ticks_succ k s _ (h.trans (pinStep_done _ _ hp))

/-- The last step of a command. -/
theorem ticks_last (s : State) {done : State} (h : tick s = pinStep done s) (hp : s.pinAck = true) :
    ticks 1 s = .next done := (ticks_one s).trans (h.trans (pinStep_done _ _ hp))

/-! ### The decision of `XB_FALL`, and the store -/

/-- The end of an XFER's last `XB_FALL` (R154). -/
theorem afterFall_moveTo_xfer (s : State) (h : s.bitpos = 0) (ho : s.op = .xfer) :
    afterFall (moveTo .xbFall s) = .next (respond .ok s.rxb s) := afterFall_xfer (moveTo .xbFall s) h ho

/-- The end of the last `XB_FALL` of a byte of a TRANS (R154). -/
theorem afterFall_moveTo_trans (s : State) (h : s.bitpos = 0) (ho : s.op = .trans) :
    afterFall (moveTo .xbFall s) = .next (moveTo .trStore s) := afterFall_trans (moveTo .xbFall s) h ho

/-- The store of a byte of a TRANS, inside the buffer (R155). -/
theorem tick_moveTo_store (s : State) (hi : s.idx.toNat < s.build.max) :
    tick (moveTo .trStore s) = .next (moveTo (if s.idx + 1 = s.len then .trDeselect else .trLoad) (storeByte s)) :=
  (tick_store (moveTo .trStore s) rfl hi).trans (by rw [storeByte_moveTo]; rfl)

end Sys2Proof.Machine

/-! ## The sequencer's run of each command ends where its events end (R11, R151 to R156, R203) -/

namespace Sys2Proof.Machine

/-! ### INIT, TXBIT, RXBIT: three steps -/

/-- The three steps of INIT (R151). -/
theorem ticks_runInit (s : State) (hs : s.seq = .initMosi) (hp : s.pinAck = true) : ticks 3 s = .next (runInit s) := by
  rw [ticks_write 2 s (tick_initMosi s hs) hp, ticks_write 1 _ (tick_initSck _ rfl) (by exact hp),
    ticks_last _ (tick_initSs _ rfl) (by exact hp)]
  rfl

/-- The three steps of TXBIT, whose bit stands in the byte to send (R152). -/
theorem ticks_runTxbit (bit : Level) (s : State) (hs : s.seq = .tbSetup) (hp : s.pinAck = true)
    (hb : bitOf s.txb 0 = bit) : ticks 3 s = .next (runTxbit bit s) := by
  subst hb
  rw [ticks_write 2 s (tick_tbSetup s hs) hp, ticks_write 1 _ (tick_tbRise _ rfl) (by exact hp),
    ticks_last _ (tick_tbFall _ rfl) (by exact hp)]
  rfl

/-- The three steps of RXBIT: inserted into an empty receive byte the sample is the answer (R152). -/
theorem ticks_runRxbit (s : State) (hs : s.seq = .rbRise) (hp : s.pinAck = true) (hr : s.rxb = 0) :
    ticks 3 s = .next (runRxbit s) := by
  have answer (l : Level) : byteOfLevel l = setBit s.rxb 0 l := by rw [hr]; exact (setBit_zero l).symm
  rw [ticks_write 2 s (tick_rbRise s hs) hp, ticks_sample 1 _ (tick_rbSample _ rfl) (by exact hp),
    ticks_last _ (tick_rbFall _ rfl) (by exact hp), runRxbit, answer]
  rfl

/-! ### A byte: four steps a position -/

/-- From position `k` on, four steps a position, up to the decision of the last `XB_FALL` (R153, R154). -/
theorem ticks_bitCycles (k : Nat) (hk : k < 8) (s : State) (hs : s.seq = .xbSetup) (hp : s.pinAck = true)
    (hb : s.bitpos = BitVec.ofNat 3 k) :
    ticks (4 * (k + 1)) s = afterFall (moveTo .xbFall (bitCycles (k + 1) s)) := by
  induction k generalizing s with
  | zero => rw [ticks_bitCycle s hs hp, hb]; rfl
  | succ k ih =>
    have notLast : BitVec.ofNat 3 (k + 1) ≠ 0 := by bv_omega
    have next : BitVec.ofNat 3 (k + 1) - 1 = BitVec.ofNat 3 k := by bv_omega
    have four : ticks 4 s =
        .next (moveTo .xbSetup { bitCycle (BitVec.ofNat 3 (k + 1)) s with bitpos := BitVec.ofNat 3 k }) := by
      rw [ticks_bitCycle s hs hp, hb, ← next]
      exact afterFall_again _ notLast
    rw [Nat.mul_succ, Nat.add_comm, ticks_add _ _ _ _ four, ih (by omega) _ rfl (by simpa using hp) rfl, bitCycles_moveTo,
      moveTo_moveTo, bitCycles_setBitpos, ← bitCycles]

/-- The 32 steps of a byte, up to the decision of the last `XB_FALL` (R132, R154). -/
theorem ticks_exchangeByte (s : State) (hs : s.seq = .xbSetup) (hp : s.pinAck = true) (hb : s.bitpos = 7) :
    ticks 32 s = afterFall (moveTo .xbFall (exchangeByte s)) := by
  have h := ticks_bitCycles 7 (by decide) s hs hp hb
  rwa [← exchangeByte] at h

/-- The 32 steps of XFER (R153, R154). -/
theorem ticks_runXfer (s : State) (hs : s.seq = .xbSetup) (hp : s.pinAck = true) (hb : s.bitpos = 7)
    (ho : s.op = .xfer) : ticks 32 s = .next (runXfer s) := by
  obtain ⟨last, op, -⟩ := exchangeByte_frame s
  rw [ticks_exchangeByte s hs hp hb, afterFall_moveTo_xfer _ last (op.trans ho), ← runXfer]

/-! ### A frame: 34 steps a byte -/

/-- The 34 steps of a byte of a frame: load, 32 steps, store (R155). -/
theorem ticks_frameByte (s : State) (hs : s.seq = .trLoad) (hp : s.pinAck = true) (ho : s.op = .trans)
    (hi : s.idx.toNat < s.build.max) :
    ticks 34 s = .next (moveTo (if s.idx + 1 = s.len then .trDeselect else .trLoad) (frameByte s)) := by
  obtain ⟨last, op, idx, len, build⟩ := exchangeByte_frame (loadByte s)
  have load : tick s = .next (moveTo .xbSetup (loadByte s)) := tick_load s hs hi
  have byte : ticks 32 (moveTo .xbSetup (loadByte s)) = .next (moveTo .trStore (exchangeByte (loadByte s))) := by
    rw [ticks_exchangeByte _ rfl (by exact hp) rfl, exchangeByte_moveTo, moveTo_moveTo,
      afterFall_moveTo_trans _ last (op.trans ho)]
  have store : tick (moveTo .trStore (exchangeByte (loadByte s))) =
      .next (moveTo (if s.idx + 1 = s.len then .trDeselect else .trLoad) (frameByte s)) := by
    rw [tick_moveTo_store _ (by simpa [idx, build] using hi), ← frameByte, idx, len, loadByte_idx, loadByte_len]
  rw [ticks_succ 33 _ _ load, ticks_add 32 1 _ _ byte, ticks_one, store]

/-- The byte loop: `k` bytes from the current index up to `len`, each of 34 steps (R155). -/
theorem ticks_frameBytes (k : Nat) (s : State) (hs : s.seq = if k = 0 then .trDeselect else .trLoad)
    (hp : s.pinAck = true) (ho : s.op = .trans) (hk : s.idx.toNat + k = s.len.toNat) (hn : s.len.toNat ≤ s.build.max) :
    ticks (34 * k) s = .next (moveTo .trDeselect (frameBytes k s)) := by
  induction k generalizing s with
  | zero => exact congrArg _ (moveTo_self _ s hs).symm
  | succ k ih =>
    obtain ⟨idx, len, op, acks, build⟩ := frameByte_frame s
    have index : (s.idx + 1).toNat = s.idx.toNat + 1 := by bv_omega
    have last : s.idx + 1 = s.len ↔ k = 0 := by rw [← BitVec.toNat_inj, index]; omega
    have byte := ticks_frameByte s (by simpa using hs) hp ho (by omega)
    have rest := ih (moveTo (if k = 0 then .trDeselect else .trLoad) (frameByte s)) rfl (acks.trans hp) (op.trans ho)
      (by rw [moveTo_idx, moveTo_len, idx, len]; omega) (by rwa [moveTo_build, moveTo_len, build, len])
    simp only [last] at byte
    rw [Nat.mul_succ, Nat.add_comm, ticks_add _ _ _ _ byte, rest, frameBytes_moveTo, moveTo_moveTo, ← frameBytes]

/-- The steps of TRANS: select, the byte loop, deselect (R155, R156). -/
theorem ticks_runTrans (n : Len) (s : State) (hs : s.seq = .trSelect) (hp : s.pinAck = true) (ho : s.op = .trans)
    (hi : s.idx = 0) (hl : s.len = n) (hn : n.toNat ≤ s.build.max) :
    ticks (2 + 34 * n.toNat) s = .next (runTrans n s) := by
  subst hl
  have empty : s.len = 0 ↔ s.len.toNat = 0 := by rw [← BitVec.toNat_inj]; rfl
  have select : tick s = .next (moveTo (if s.len = 0 then .trDeselect else .trLoad) (selectSlave s)) :=
    (tick_trSelect s hs).trans (pinStep_done _ _ hp)
  have loop := ticks_frameBytes s.len.toNat (moveTo (if s.len = 0 then .trDeselect else .trLoad) (selectSlave s))
    (by simp only [moveTo_seq, empty]) hp ho (by simp [selectSlave, hi]) hn
  rw [frameBytes_moveTo, moveTo_moveTo] at loop
  have acks : (frameBytes s.len.toNat (selectSlave s)).pinAck = true := (frameBytes_pinAck _ _).trans hp
  rw [show 2 + 34 * s.len.toNat = 34 * s.len.toNat + 1 + 1 by omega, ticks_succ _ _ _ select, ticks_add _ _ _ _ loop,
    ticks_last _ (tick_trDeselect _ rfl) (by exact acks)]
  rfl

/-! ### The commands that start -/

/-- A command that needs a context starts only where there is one (R150, R163). -/
theorem ctxValid_of_starts (i : Instr) (s : State) (hi : i.needsContext = true) (h : (accept i s).seq ≠ .idle) :
    s.ctxValid = true := by
  by_contra hc
  exact h (by rw [accept_none i s (by simpa using hc) hi]; rfl)

/-- A TRANS starts only within bounds (R141). -/
theorem length_le_max_of_starts (n : Len) (s : State) (hs : s.seq = .idle) (hc : s.ctxValid = true)
    (h : (accept (.trans n) s).seq ≠ .idle) : n.toNat ≤ s.build.max := by
  by_contra hn
  exact h (by rw [accept, acceptTrans_exceeds n s hs hc (by omega)]; exact hs)

/-- The level TXBIT sends is the bit it was given (R150, R152). -/
theorem bitOf_byteOfLevel (l : Level) : bitOf (byteOfLevel l) 0 = l := by cases l <;> rfl

/-- Acceptance of a TXBIT in a context (R150). -/
theorem acceptTxbit_ctx (bit : Level) (s : State) (hc : s.ctxValid = true) :
    acceptTxbit bit s = { s with respValid := false, op := .txbit, txb := byteOfLevel bit, seq := .tbSetup } :=
  withContext_ctx _ s hc

/-- Acceptance of an RXBIT in a context (R150). -/
theorem acceptRxbit_ctx (s : State) (hc : s.ctxValid = true) :
    acceptRxbit s = { s with respValid := false, op := .rxbit, rxb := 0x00, seq := .rbRise } :=
  withContext_ctx _ s hc

/-- Acceptance of an XFER in a context (R150). -/
theorem acceptXfer_ctx (v : Byte) (s : State) (hc : s.ctxValid = true) :
    acceptXfer v s = { s with respValid := false, op := .xfer, txb := v, rxb := 0x00, bitpos := 7, seq := .xbSetup } :=
  withContext_ctx _ s hc

/-- From its acceptance, a command that starts is at the end of its events after the steps of R203. -/
theorem ticks_accept (i : Instr) (s : State) (hs : s.seq = .idle) (hp : s.pinAck = true)
    (h : (accept i s).seq ≠ .idle) :
    ticks (stepsAfterAcceptance i) (accept i s) = .next (eventsOf i (accept i s)) := by
  cases i with
  | init mosi miso sck ss => exact ticks_runInit (acceptInit mosi miso sck ss s) rfl hp
  | txbit bit =>
    rw [accept, acceptTxbit_ctx bit s (ctxValid_of_starts _ s rfl h)]
    exact ticks_runTxbit bit _ rfl (by exact hp) (bitOf_byteOfLevel bit)
  | rxbit =>
    rw [accept, acceptRxbit_ctx s (ctxValid_of_starts _ s rfl h)]
    exact ticks_runRxbit _ rfl (by exact hp) rfl
  | xfer txByte =>
    rw [accept, acceptXfer_ctx txByte s (ctxValid_of_starts _ s rfl h)]
    exact ticks_runXfer _ rfl (by exact hp) rfl rfl
  | trans length =>
    have ctx := ctxValid_of_starts _ s rfl h
    have fits := length_le_max_of_starts length s hs ctx h
    rw [accept, acceptTrans_fits length s ctx fits]
    exact ticks_runTrans length _ rfl (by exact hp) rfl rfl rfl (by exact fits)

/-- Settles O42: both levels end in the events of the command performed on the accepted state. -/
theorem sequencerEndsWhereTheWholeCommandEnds : Obligations.SequencerEndsWhereTheWholeCommandEnds := by
  intro i s hs hp h
  refine ⟨eventsOf i (accept i s), ?_, ticks_accept i s hs hp h⟩
  rw [exec_wholeCommand, wholeCommand_runs _ _ s hs h hp]

end Sys2Proof.Machine

/-! ## What a step can be: a move of the outside world and the sequencer steps that finish it (R11, R205)

A called word is its acceptance step and then the sequencer's steps to its end, so a property that acceptance and one step
of the sequencer keep, every step keeps. -/

namespace Sys2Proof.Machine

/-- What one step of the sequencer keeps, any number of them keeps. -/
theorem ticks_keeps {P : State → Prop} (kept : ∀ s t, P s → tick s = .next t → P t) (k : Nat) (s t : State)
    (hs : P s) (h : ticks k s = .next t) : P t := by
  induction k generalizing s with
  | zero => cases h; exact hs
  | succ k ih =>
    cases e : tick s with
    | next u => exact ih u (kept s u hs e) (by rwa [ticks_succ k s u e] at h)
    | fault r => simp [ticks, e] at h
    | refused r => simp [ticks, e] at h

/-- The build, the configuration and the context, which no step of the sequencer writes (R22, R32). -/
theorem ticks_outside (k : Nat) (s t : State) (h : ticks k s = .next t) :
    t.build = s.build ∧ t.cfg = s.cfg ∧ t.ctxValid = s.ctxValid := by
  refine ticks_keeps (P := fun u => u.build = s.build ∧ u.cfg = s.cfg ∧ u.ctxValid = s.ctxValid) ?_ k s t
    ⟨rfl, rfl, rfl⟩ h
  rintro u v ⟨build, cfg, ctx⟩ e
  obtain ⟨-, build', cfg', ctx', -⟩ := tick_outside u v e
  exact ⟨build'.trans build, cfg'.trans cfg, ctx'.trans ctx⟩

/-- A command given to an idle engine ends where steps of the sequencer lead from its acceptance (R11, R157 item 2). -/
theorem exec_ticks (i : Instr) (s t : State) (hs : s.seq = .idle) (h : exec i s = .next t) :
    ∃ k, ticks k (accept i s) = .next t := by
  rw [exec_wholeCommand] at h
  rcases wholeCommand_next _ _ s t h with ⟨busy, -⟩ | ⟨-, rfl⟩ | ⟨-, starts, acks, rfl⟩
  · exact absurd hs busy
  · exact ⟨0, rfl⟩
  · exact ⟨stepsAfterAcceptance i, ticks_accept i s hs acks starts⟩

/-- What a move of the outside world makes of the state, before the sequencer steps that finish it: none but for a called
word and for `pass`. -/
inductive Entry (s : State) : Input → State → Prop where
  | word {m : Input} (w : CmdWord) (hm : m = .call w ∨ m = .present w) (hs : s.seq = .idle) : Entry s m (presentWord w s)
  | pass : Entry s .pass s
  | reset : Entry s .reset (resetEngine s)
  | writeTx (i : Len) (v : Byte) (hi : inBuffer i s = true) : Entry s (.writeTx i v) (putTx i v s)
  | writeRx (i : Len) (v : Byte) (hi : inBuffer i s = true) : Entry s (.writeRx i v) (putRx i v s)
  | setMiso (source : MisoSource) : Entry s (.setMiso source) { s with misoSource := source }
  | setPinAck (ack : Bool) : Entry s (.setPinAck ack) { s with pinAck := ack }

/-- A called word enters as a presented one and is finished by steps of the sequencer (R11, R63). -/
theorem callWord_ticks (w : CmdWord) (s t : State) (hs : s.seq = .idle) (h : callWord w s = .next t) :
    ∃ k, ticks k (presentWord w s) = .next t := by
  unfold callWord at h
  unfold presentWord
  cases hw : decode w with
  | command i => exact exec_ticks i s t hs (by simpa only [hw] using h)
  | invalid why => simp only [hw] at h; exact ⟨0, h⟩

/-- Every move that happens is its entry and steps of the sequencer (R205). -/
theorem takeInput_entry (m : Input) (s t : State) (ok : needsIdle m = false ∨ s.seq = .idle)
    (h : takeInput m s = .next t) : ∃ u k, Entry s m u ∧ ticks k u = .next t := by
  cases m with
  | call w =>
    have hs : s.seq = .idle := ok.resolve_left nofun
    obtain ⟨k, hk⟩ := callWord_ticks w s t hs h
    exact ⟨_, k, .word w (.inl rfl) hs, hk⟩
  | present w => exact ⟨_, 0, .word w (.inr rfl) (ok.resolve_left nofun), h⟩
  | pass => exact ⟨_, 1, .pass, (ticks_one s).trans h⟩
  | reset => exact ⟨_, 0, .reset, h⟩
  | writeTx i v =>
    by_cases hi : inBuffer i s = true
    · rw [takeInput, if_pos hi] at h; exact ⟨_, 0, .writeTx i v hi, h⟩
    · simp [takeInput, hi] at h
  | writeRx i v =>
    by_cases hi : inBuffer i s = true
    · rw [takeInput, if_pos hi] at h; exact ⟨_, 0, .writeRx i v hi, h⟩
    · simp [takeInput, hi] at h
  | setMiso source => exact ⟨_, 0, .setMiso source, h⟩
  | setPinAck ack => exact ⟨_, 0, .setPinAck ack, h⟩

/-- Every step is a step of the sequencer, or a move's entry and steps of the sequencer. -/
theorem step_entry (s t : State) (h : step s = .next t) :
    tick s = .next t ∨
      ∃ m rest u k, s.env = m :: rest ∧ Entry { s with env := rest } m u ∧ ticks k u = .next t := by
  rcases step_cases s t h with e | ⟨m, rest, he, ok, e⟩
  · exact .inl e
  · obtain ⟨u, k, hu, hk⟩ := takeInput_entry m { s with env := rest } t ok e
    exact .inr ⟨m, rest, u, k, he, hu, hk⟩

/-! ### The build and the context -/

/-- No move writes a build parameter (R32, R194). -/
theorem Entry.build {s u : State} {m : Input} (h : Entry s m u) : u.build = s.build := by
  cases h with
  | word w =>
    unfold presentWord
    split
    · exact (accept_outside _ s).1
    · rfl
  | writeRx i v => exact putRx_build i v s
  | _ => rfl

/-- Settles O55: neither a move nor a step of the sequencer writes the build. -/
theorem noStepChangesTheBuild : Obligations.NoStepChangesTheBuild := by
  intro s t h
  rcases step_entry s t h with e | ⟨m, rest, u, k, -, entry, e⟩
  · exact (tick_outside s t e).2.1
  · exact (ticks_outside k u t e).1.trans entry.build

/-- Acceptance of any command but INIT leaves the context (R22, R150). -/
theorem accept_ctxValid (i : Instr) (s : State) (hi : i.needsContext = true) : (accept i s).ctxValid = s.ctxValid := by
  cases hc : s.ctxValid with
  | false => rw [accept_none i s hc hi]; exact hc
  | true =>
    cases i with
    | init => cases hi
    | txbit bit => rw [accept, acceptTxbit_ctx bit s hc]; exact hc
    | rxbit => rw [accept, acceptRxbit_ctx s hc]; exact hc
    | xfer txByte => rw [accept, acceptXfer_ctx txByte s hc]; exact hc
    | trans length =>
      rw [accept, acceptTrans, withContext_ctx _ s hc]
      split <;> exact hc

/-- A presented word leaves the context, unless it decodes to an INIT, which sets it together with `cfg` (R22, R100). -/
theorem presentWord_ctxValid (w : CmdWord) (s : State) :
    (presentWord w s).ctxValid = s.ctxValid ∨
      ∃ m i k c, decode w = .command (.init m i k c) ∧ (presentWord w s).ctxValid = true ∧
        (presentWord w s).cfg = { mosi := m, miso := i, sck := k, ss := c } := by
  unfold presentWord
  cases decode w with
  | invalid why => exact .inl rfl
  | command i =>
    cases i with
    | init m i k c => exact .inr ⟨m, i, k, c, rfl, rfl, rfl⟩
    | _ => exact .inl (accept_ctxValid _ s rfl)

/-- What a move can do to the context: keep it, clear it by a reset, set it by an INIT (R22). -/
theorem Entry.ctxValid {s u : State} {m : Input} (h : Entry s m u) :
    u.ctxValid = s.ctxValid ∨ (m = .reset ∧ u.ctxValid = false) ∨
      (s.seq = .idle ∧ u.ctxValid = true ∧ ∃ w a b c d, (m = .call w ∨ m = .present w) ∧
        decode w = .command (.init a b c d) ∧ u.cfg = { mosi := a, miso := b, sck := c, ss := d }) := by
  cases h with
  | word w hm hs =>
    rcases presentWord_ctxValid w s with same | ⟨a, b, c, d, hw, ctx, cfg⟩
    · exact .inl same
    · exact .inr (.inr ⟨hs, ctx, w, a, b, c, d, hm, hw, cfg⟩)
  | reset => exact .inr (.inl ⟨rfl, rfl⟩)
  | writeRx i v => exact .inl (putRx_ctxValid i v s)
  | _ => exact .inl rfl

/-- Settles O54: the sequencer keeps the context, so it changes as the move that enters changes it. -/
theorem contextComesFromInitAndGoesWithReset : Obligations.ContextComesFromInitAndGoesWithReset := by
  intro s t h
  rcases step_entry s t h with e | ⟨m, rest, u, k, he, entry, e⟩
  · obtain ⟨-, -, -, ctx, -⟩ := tick_outside s t e
    exact ⟨fun set cleared => by simp [ctx, set] at cleared, fun unset set => by simp [ctx, unset] at set⟩
  · obtain ⟨-, cfg, ctx⟩ := ticks_outside k u t e
    rcases entry.ctxValid with same | ⟨rfl, cleared⟩ | ⟨hs, set, w, a, b, c, d, hm, hw, hcfg⟩
    · replace ctx : t.ctxValid = s.ctxValid := ctx.trans same
      exact ⟨fun set cleared => by simp [ctx, set] at cleared, fun unset set => by simp [ctx, unset] at set⟩
    · exact ⟨fun _ _ => ⟨rest, he⟩, fun _ set => by simp [ctx, cleared] at set⟩
    · refine ⟨fun _ cleared => by simp [ctx, set] at cleared, fun _ _ => ?_⟩
      refine ⟨hs, w, rest, a, b, c, d, ?_, hw, cfg.trans hcfg⟩
      rcases hm with rfl | rfl <;> simp [he]

end Sys2Proof.Machine

/-! ## The invariant (R38)

In a context the invariant has three parts that each step is checked for apart: the control registers at their position,
the levels of SCK and SS, and the canonical form of the memories. -/

namespace Sys2Proof.Machine

/-- The control registers agree with the sequencer position (R24, R28, R29). -/
structure PositionFits (s : State) : Prop where
  op : opFits s = true
  tsm : s.tsm = .selected ↔ frameOpen s = true
  index : indexFits s = true

/-- SCK and SS have the levels the position presupposes (R38 items 3 to 5). -/
structure LevelsFit (s : State) : Prop where
  sck : ∀ l, sckLevel s.seq = some l → driven s.cfg.sck s = some l
  ss : ∀ l, ssLevel s = some l → driven s.cfg.ss s = some l

/-- The pin bank and the buffers are in canonical form. -/
structure Canonical (s : State) : Prop where
  pins : Memory.wf 256 s.pins = true
  tx : Memory.wf s.build.max s.tx = true
  rx : Memory.wf s.build.max s.rx = true

section
variable {s t : State}

theorem Inv.position (h : Inv s) : PositionFits s := ⟨h.op, h.tsm, h.index⟩

theorem Inv.levels (h : Inv s) (hc : s.ctxValid = true) (hd : cfgDistinct s = true) : LevelsFit s :=
  ⟨h.sck hc hd, h.ss hc hd⟩

theorem Inv.canonical (h : Inv s) : Canonical s := ⟨h.pins, h.tx, h.rx⟩

/-- The invariant from its parts. -/
theorem Inv.of_parts (position : PositionFits s) (ctx : s.ctxValid = false → s.seq = .idle)
    (levels : s.ctxValid = true → cfgDistinct s = true → LevelsFit s) (contract : s.mark = none → pinsDefined s = true)
    (canonical : Canonical s) : Inv s where
  op := position.op
  ctx := ctx
  tsm := position.tsm
  index := position.index
  sck hc hd := (levels hc hd).sck
  ss hc hd := (levels hc hd).ss
  contract := contract
  pins := canonical.pins
  tx := canonical.tx
  rx := canonical.rx

/-- A store inside the buffer keeps the memories in canonical form, whichever array it goes to (R69). -/
theorem Canonical.putRx (h : Canonical s) (i : Len) (v : Byte) (hi : inBuffer i s = true) : Canonical (putRx i v s) where
  pins := by rw [putRx_pins]; exact h.pins
  tx := by rw [putRx_build]; exact putRx_wf_tx i v s hi h.tx
  rx := by rw [putRx_build]; exact putRx_wf_rx i v s hi h.rx

/-! ### The levels after a step, by what it writes -/

/-- Distinct pins: MOSI is neither SCK nor SS, and these two differ (R196). -/
theorem cfgDistinct_ne (hd : cfgDistinct s = true) :
    s.cfg.sck ≠ s.cfg.mosi ∧ s.cfg.ss ≠ s.cfg.mosi ∧ s.cfg.ss ≠ s.cfg.sck := by
  simp only [cfgDistinct, pinsDistinct, Bool.and_eq_true, bne_iff_ne] at hd
  obtain ⟨⟨⟨⟨⟨-, mosi_sck⟩, mosi_ss⟩, -⟩, -⟩, sck_ss⟩ := hd
  exact ⟨mosi_sck.symm, mosi_ss.symm, sck_ss.symm⟩

/-- The level a pin was last driven to, after a write to a pin (R33, R51). -/
theorem driven_of_write (p q : Pin) (l : Level) (hp : t.pins = Memory.write s.pins p.toNat l) :
    driven q t = if q = p then some l else driven q s := by
  simp only [driven, hp, Memory.read_write, BitVec.toNat_inj]

/-- A step without a pin write, to a position that presupposes the same levels. -/
theorem LevelsFit.of_pins_eq (h : LevelsFit s) (hc : t.cfg = s.cfg) (hp : t.pins = s.pins)
    (sck : sckLevel t.seq = sckLevel s.seq) (ss : ssLevel t = ssLevel s) : LevelsFit t where
  sck l e := by rw [driven, hc, hp]; exact h.sck l (sck ▸ e)
  ss l e := by rw [driven, hc, hp]; exact h.ss l (ss ▸ e)

/-- A write to MOSI, to a position that presupposes the same levels. -/
theorem LevelsFit.of_mosi (h : LevelsFit s) (hd : cfgDistinct s = true) (l : Level) (hc : t.cfg = s.cfg)
    (hp : t.pins = Memory.write s.pins s.cfg.mosi.toNat l) (sck : sckLevel t.seq = sckLevel s.seq)
    (ss : ssLevel t = ssLevel s) : LevelsFit t := by
  obtain ⟨sck_ne, ss_ne, -⟩ := cfgDistinct_ne hd
  constructor
  · intro m e
    rw [hc, driven_of_write _ _ l hp, if_neg sck_ne]
    exact h.sck m (sck ▸ e)
  · intro m e
    rw [hc, driven_of_write _ _ l hp, if_neg ss_ne]
    exact h.ss m (ss ▸ e)

/-- A write to SCK, to a position that presupposes the level written. -/
theorem LevelsFit.of_sck (h : LevelsFit s) (hd : cfgDistinct s = true) (l : Level) (hc : t.cfg = s.cfg)
    (hp : t.pins = Memory.write s.pins s.cfg.sck.toNat l) (sck : sckLevel t.seq = some l)
    (ss : ssLevel t = ssLevel s) : LevelsFit t := by
  obtain ⟨-, -, ss_ne⟩ := cfgDistinct_ne hd
  constructor
  · intro m e
    rw [hc, driven_of_write _ _ l hp, if_pos rfl]
    exact sck.symm.trans e
  · intro m e
    rw [hc, driven_of_write _ _ l hp, if_neg ss_ne]
    exact h.ss m (ss ▸ e)

/-- A write to SS, to a position that presupposes the level written. -/
theorem LevelsFit.of_ss (h : LevelsFit s) (hd : cfgDistinct s = true) (l : Level) (hc : t.cfg = s.cfg)
    (hp : t.pins = Memory.write s.pins s.cfg.ss.toNat l) (sck : sckLevel t.seq = sckLevel s.seq)
    (ss : ssLevel t = some l) : LevelsFit t := by
  obtain ⟨-, -, ss_ne⟩ := cfgDistinct_ne hd
  constructor
  · intro m e
    rw [hc, driven_of_write _ _ l hp, if_neg ss_ne.symm]
    exact h.sck m (sck ▸ e)
  · intro m e
    rw [hc, driven_of_write _ _ l hp, if_pos rfl]
    exact ss.symm.trans e

end

/-! ### A step of the sequencer, part by part -/

/-- A step that makes a pin request waits or is done: what holds of both states holds after it. -/
theorem pinStep_keeps {P : State → Prop} {done s t : State} (h : pinStep done s = .next t) (hs : P s) (hdone : P done) :
    P t := by
  rcases pinStep_next done s t h with ⟨-, rfl⟩ | ⟨-, rfl⟩
  · exact hdone
  · exact hs

/-- `XB_FALL` where the Pin Interface answers: what it writes, and the three positions it leads to (R154). -/
theorem fallStep_next (s t : State) (h : fallStep s = .next t) :
    t = s ∨ t = { pinWrite s.cfg.sck false s with bitpos := s.bitpos - 1, seq := .xbSetup } ∨
      (s.op = .xfer ∧ t = respond .ok s.rxb (pinWrite s.cfg.sck false s)) ∨
      (s.op = .trans ∧ t = moveTo .trStore (pinWrite s.cfg.sck false s)) := by
  unfold fallStep at h
  split at h
  · rcases afterFall_next _ t h with ⟨-, rfl⟩ | ⟨-, op, rfl⟩ | ⟨-, op, rfl⟩
    · exact .inr (.inl rfl)
    · exact .inr (.inr (.inl ⟨op, rfl⟩))
    · exact .inr (.inr (.inr ⟨op, rfl⟩))
  · cases h; exact .inl rfl

/-- The load happens inside the buffer (R155). -/
theorem loadStep_next (s t : State) (h : loadStep s = .next t) :
    inBuffer s.idx s = true ∧ t = moveTo .xbSetup (loadByte s) := by
  unfold loadStep at h
  split at h <;> cases h
  exact ⟨‹_›, rfl⟩

/-- The store happens inside the buffer (R155). -/
theorem storeStep_next (s t : State) (h : storeStep s = .next t) :
    inBuffer s.idx s = true ∧ t = moveTo (if s.idx + 1 = s.len then .trDeselect else .trLoad) (storeByte s) := by
  unfold storeStep at h
  split at h <;> cases h
  exact ⟨‹_›, rfl⟩

section
variable (q : Seq) (s : State)

@[simp] theorem moveTo_op : (moveTo q s).op = s.op := rfl
@[simp] theorem moveTo_tsm : (moveTo q s).tsm = s.tsm := rfl
@[simp] theorem loadByte_op : (loadByte s).op = s.op := rfl
@[simp] theorem storeByte_op : (storeByte s).op = s.op := memWriteRx_op s.idx s.rxb s
@[simp] theorem storeByte_tsm : (storeByte s).tsm = s.tsm := memWriteRx_tsm s.idx s.rxb s
@[simp] theorem storeByte_idx : (storeByte s).idx = s.idx + 1 := rfl
@[simp] theorem storeByte_len : (storeByte s).len = s.len := memWriteRx_len s.idx s.rxb s
@[simp] theorem storeByte_build : (storeByte s).build = s.build := memWriteRx_build s.idx s.rxb s

end

/-- After the store of a byte the index is at the end of the transaction, or names its next byte (R28, R155). -/
theorem storeByte_indexFits (s : State) (hl : s.len.toNat ≤ s.build.max) (hi : s.idx.toNat < s.len.toNat) :
    indexFits (moveTo (if s.idx + 1 = s.len then .trDeselect else .trLoad) (storeByte s)) = true := by
  split
  · next last => simpa [indexFits, hl] using last
  · next more =>
    have inside : (s.idx + 1).toNat < s.len.toNat := by bv_omega
    simpa [indexFits, hl] using inside

/-- After the select the index stands at 0: the end of an empty transaction, or its first byte (R28, R142). -/
theorem selectSlave_indexFits (s : State) (hl : s.len.toNat ≤ s.build.max) (hi : s.idx = 0) :
    indexFits (moveTo (if s.len = 0 then .trDeselect else .trLoad) (selectSlave s)) = true := by
  split
  · next empty => simp [indexFits, selectSlave, hi, empty]
  · next more =>
    have inside : 0 < s.len.toNat := Nat.pos_of_ne_zero fun e => more (BitVec.eq_of_toNat_eq e)
    simp [indexFits, selectSlave, hi, hl, inside]

/-- The positions of an open frame other than those of a byte belong to a TRANS (R29). -/
theorem frameOpen_moveTo (b : Prop) [Decidable b] (s : State) :
    frameOpen (moveTo (if b then .trDeselect else .trLoad) s) = (s.op == .trans) := by
  split <;> rfl

/-- Those positions fit a TRANS (R24). -/
theorem opFits_moveTo (b : Prop) [Decidable b] (s : State) :
    opFits (moveTo (if b then .trDeselect else .trLoad) s) = (s.op == .trans) := by
  split <;> rfl

/-- Every step of the sequencer keeps the control registers at their position (R24, R28, R29). -/
theorem tick_positionFits (s t : State) (h : PositionFits s) (ht : tick s = .next t) : PositionFits t := by
  have ⟨op, tsm, index⟩ := h
  cases hs : s.seq <;> simp only [tick, hs, writeThen, sampleStep] at ht <;>
    simp only [opFits, frameOpen, indexFits, hs] at op tsm index
  case idle => cases ht; exact h
  case initMosi | initSck | tbSetup | tbRise | rbRise | rbSample => exact pinStep_keeps ht h ⟨op, tsm, rfl⟩
  case xbSetup | xbRise | xbSample => exact pinStep_keeps ht h ⟨op, tsm, index⟩
  case initSs | tbFall | rbFall => exact pinStep_keeps ht h ⟨rfl, tsm, rfl⟩
  case xbFall =>
    rcases fallStep_next s t ht with rfl | rfl | ⟨xfer, rfl⟩ | ⟨trans, rfl⟩
    · exact h
    · exact ⟨op, tsm, index⟩
    · exact ⟨rfl, by simpa [frameOpen, xfer] using tsm, rfl⟩
    · exact ⟨by simp [opFits, trans], by simpa [frameOpen, trans] using tsm, by rw [trans] at index; exact index⟩
  case trSelect =>
    simp only [Bool.and_eq_true, decide_eq_true_eq, beq_iff_eq] at index
    refine pinStep_keeps ht h ⟨(opFits_moveTo _ (selectSlave s)).trans op, ?_, selectSlave_indexFits s index.1 index.2⟩
    exact iff_of_true rfl ((frameOpen_moveTo _ (selectSlave s)).trans op)
  case trLoad =>
    obtain ⟨-, rfl⟩ := loadStep_next s t ht
    have trans : s.op = .trans := by simpa using op
    exact ⟨by simp [opFits, trans], tsm, Bool.or_eq_true_iff.2 (.inr index)⟩
  case trStore =>
    obtain ⟨-, rfl⟩ := storeStep_next s t ht
    simp only [Bool.and_eq_true, decide_eq_true_eq] at index
    refine ⟨?_, ?_, storeByte_indexFits s index.1 index.2⟩
    · rw [opFits_moveTo, storeByte_op, op]
    · rw [frameOpen_moveTo, moveTo_tsm, storeByte_tsm, storeByte_op, tsm]
  case trDeselect => exact pinStep_keeps ht h ⟨rfl, by simp [frameOpen, deselectSlave], rfl⟩

/-- Every step of the sequencer keeps the levels of SCK and SS right (R38 items 3 to 5, R114). -/
theorem tick_levelsFit (s t : State) (hd : cfgDistinct s = true) (hp : PositionFits s) (h : LevelsFit s)
    (ht : tick s = .next t) : LevelsFit t := by
  have op := hp.op
  cases hs : s.seq <;> simp only [tick, hs, writeThen, sampleStep] at ht <;> simp only [opFits, hs] at op
  case idle => cases ht; exact h
  case initMosi | tbSetup | xbSetup =>
    exact pinStep_keeps ht h (h.of_mosi hd _ rfl rfl (by simp [sckLevel, hs]) (by simp [ssLevel, frameOpen, hs]))
  case initSck | tbRise | tbFall | rbRise | rbFall | xbRise =>
    exact pinStep_keeps ht h (h.of_sck hd _ rfl rfl rfl (by simp [ssLevel, frameOpen, hs]))
  case rbSample | xbSample =>
    exact pinStep_keeps ht h (h.of_pins_eq rfl rfl (by simp [sckLevel, hs]) (by simp [ssLevel, frameOpen, hs]))
  case xbFall =>
    rcases fallStep_next s t ht with rfl | rfl | ⟨xfer, rfl⟩ | ⟨trans, rfl⟩
    · exact h
    · exact h.of_sck hd _ rfl rfl rfl (by simp [ssLevel, frameOpen, hs])
    · exact h.of_sck hd _ rfl rfl rfl (by simp [ssLevel, frameOpen, hs, xfer])
    · exact h.of_sck hd _ rfl rfl rfl (by simp [ssLevel, frameOpen, hs, trans])
  case initSs | trDeselect =>
    exact pinStep_keeps ht h (h.of_ss hd _ rfl rfl (by simp [sckLevel, hs]) (by simp [ssLevel, frameOpen]))
  case trSelect =>
    have trans : s.op = .trans := by simpa using op
    refine pinStep_keeps ht h (h.of_ss hd _ rfl rfl ?_ ?_)
    · dsimp only; split <;> simp [sckLevel, hs]
    · split <;> simp [ssLevel, frameOpen, selectSlave, trans]
  case trLoad =>
    obtain ⟨-, rfl⟩ := loadStep_next s t ht
    exact h.of_pins_eq rfl rfl (by simp [sckLevel, hs]) (by simp [ssLevel, frameOpen, hs])
  case trStore =>
    obtain ⟨-, rfl⟩ := storeStep_next s t ht
    refine h.of_pins_eq (memWriteRx_cfg s.idx s.rxb s) (memWriteRx_pins s.idx s.rxb s) ?_ ?_
    · split <;> simp [sckLevel, hs]
    · split <;> simp [ssLevel, frameOpen, hs]

/-- Every step of the sequencer keeps the memories in canonical form. -/
theorem tick_canonical (s t : State) (h : Canonical s) (ht : tick s = .next t) : Canonical t := by
  have wrote (p : Pin) (l : Level) : Memory.wf 256 (Memory.write s.pins p.toNat l) = true := pinWrite_wf p l s h.pins
  cases hs : s.seq <;> simp only [tick, hs, writeThen, sampleStep] at ht
  case idle => cases ht; exact h
  case rbSample | xbSample => exact pinStep_keeps ht h ⟨h.pins, h.tx, h.rx⟩
  case xbFall =>
    rcases fallStep_next s t ht with rfl | rfl | ⟨-, rfl⟩ | ⟨-, rfl⟩
    · exact h
    all_goals exact ⟨wrote _ _, h.tx, h.rx⟩
  case trLoad =>
    obtain ⟨-, rfl⟩ := loadStep_next s t ht
    exact ⟨h.pins, h.tx, h.rx⟩
  case trStore =>
    obtain ⟨hi, rfl⟩ := storeStep_next s t ht
    have stored := h.putRx s.idx s.rxb hi
    exact ⟨stored.pins, stored.tx, stored.rx⟩
  all_goals exact pinStep_keeps ht h ⟨wrote _ _, h.tx, h.rx⟩

/-- Every step of the sequencer keeps the invariant (R38). -/
theorem tick_keeps_inv (s t : State) (h : Inv s) (ht : tick s = .next t) : Inv t := by
  obtain ⟨-, build, cfg, ctx, mark, -⟩ := tick_outside s t ht
  have distinct : cfgDistinct t = cfgDistinct s := by rw [cfgDistinct, cfg, ← cfgDistinct]
  have defined : pinsDefined t = pinsDefined s := by rw [pinsDefined, build, cfg, ctx, ← pinsDefined]
  refine Inv.of_parts (tick_positionFits s t h.position ht) ?_ ?_ ?_ (tick_canonical s t h.canonical ht)
  · intro noCtx
    have hs : s.seq = .idle := h.ctx (ctx ▸ noCtx)
    cases (tick_idle s hs).symm.trans ht
    exact hs
  · rw [ctx, distinct]
    exact fun hc hd => tick_levelsFit s t hd h.position (h.levels hc hd) ht
  · rw [mark, defined]
    exact h.contract

/-! ### A move of the outside world -/

section
variable {s : State}

/-- The invariant does not speak of the response, the MISO source, the Pin Interface and the moves still to come. -/
theorem Inv.of_unread (h : Inv s) {status : Status} {data : Byte} {valid : Bool} {source : MisoSource} {ack : Bool}
    {env : List Input} : Inv { s with
      respStatus := status, respData := data, respValid := valid, misoSource := source, pinAck := ack, env := env } :=
  ⟨h.op, h.ctx, h.tsm, h.index, h.sck, h.ss, h.contract, h.pins, h.tx, h.rx⟩

/-- The invariant asks of the buffers their canonical form only. -/
theorem Inv.of_buffers (h : Inv s) {tx rx : List Host.Cell} (htx : Memory.wf s.build.max tx = true)
    (hrx : Memory.wf s.build.max rx = true) : Inv { s with tx := tx, rx := rx } :=
  ⟨h.op, h.ctx, h.tsm, h.index, h.sck, h.ss, h.contract, h.pins, htx, hrx⟩

/-- A response to an idle engine keeps the invariant, whatever the mark of the run becomes (R83, R163). -/
theorem Inv.respond (h : Inv s) (hs : s.seq = .idle) (status : Status) (data : Byte) : Inv (respond status data s) := by
  have same : Machine.respond status data s = { s with respStatus := status, respData := data, respValid := true } := by
    rw [Machine.respond, ← hs]
  rw [same]
  exact h.of_unread

theorem Inv.clearResp (h : Inv s) : Inv (clearResp s) := h.of_unread

/-- A refusal by an idle engine keeps the invariant: a marked run promises nothing of its pins (R163, R175). -/
theorem Inv.refuse (h : Inv s) (hs : s.seq = .idle) (m : Mark) : Inv (refuse m s) := by
  have marked : Inv { s with mark := markWith m s } :=
    ⟨h.op, h.ctx, h.tsm, h.index, h.sck, h.ss, nofun, h.pins, h.tx, h.rx⟩
  exact marked.respond hs .refused 0x00

/-- An idle engine is outside every frame (R29, R38 item 1). -/
theorem Inv.tsm_of_idle (h : Inv s) (hs : s.seq = .idle) : s.tsm = .idle := by
  have closed : frameOpen s = false := by rw [frameOpen, hs]
  cases ht : s.tsm with
  | idle => rfl
  | selected => exact absurd (h.tsm.1 ht) (by simp [closed])

/-- The bus between commands: SCK low and SS high (R38 items 3 and 5). -/
theorem Inv.levels_of_idle (h : Inv s) (hs : s.seq = .idle) (hc : s.ctxValid = true) (hd : cfgDistinct s = true) :
    driven s.cfg.sck s = some false ∧ driven s.cfg.ss s = some true :=
  ⟨h.sck hc hd false (by rw [hs]; rfl), h.ss hc hd true (by rw [ssLevel, frameOpen, hs]; rfl)⟩

/-- What a command that starts in a context may write: `resp_valid`, the working registers, the position and the mark
(R150). -/
inductive Started (s : State) : State → Prop where
  | mk (o : Op) (b : BitVec 3) (v r : Byte) (i n : Len) (q : Seq) (m : Option Mark) :
    Started s { s with
      respValid := false, op := o, bitpos := b, txb := v, rxb := r, idx := i, len := n, seq := q, mark := m }

/-- A command that starts keeps the invariant where its first position presupposes the bus levels between commands (R38,
R150). -/
theorem Inv.start {t : State} (h : Inv s) (hs : s.seq = .idle) (hc : s.ctxValid = true) (started : Started s t)
    (op : opFits t = true) (closed : frameOpen t = false) (index : indexFits t = true)
    (sck : sckLevel t.seq = some false) (ss : ssLevel t = some true) (mark : t.mark = none → s.mark = none) : Inv t := by
  have idle := h.tsm_of_idle hs
  have sck_idle : sckLevel s.seq = some false := by rw [hs]; rfl
  have ss_idle : ssLevel s = some true := by rw [ssLevel, frameOpen, hs]; rfl
  cases started
  exact Inv.of_parts ⟨op, iff_of_false (by simp [idle]) (ne_true_of_eq_false closed), index⟩
    (fun noCtx => by simp [hc] at noCtx)
    (fun _ hd => (h.levels hc hd).of_pins_eq rfl rfl (sck.trans sck_idle.symm) (ss.trans ss_idle.symm))
    (fun e => h.contract (mark e)) ⟨h.pins, h.tx, h.rx⟩

/-- A TRANS that leaves the run unmarked found it unmarked (R175; log 5). -/
theorem transMark_eq_none (n : Len) (e : transMark n s = none) : s.mark = none := by
  unfold transMark at e
  split at e
  · exact e
  · cases e

/-- An INIT that leaves the run unmarked names distinct, valid pins (R102; log 6). -/
theorem initMark_eq_none (mosi miso sck ss : Pin) (e : initMark mosi miso sck ss s = none) :
    pinsDistinct mosi miso sck ss = true ∧ pinsValid s.build mosi miso sck ss = true := by
  unfold initMark at e
  split at e
  · next distinct =>
    split at e
    · next valid => exact ⟨distinct, valid⟩
    · cases e
  · cases e

/-- INIT keeps the invariant from an idle engine: its first position presupposes no level (R38, R100). -/
theorem Inv.acceptInit (h : Inv s) (mosi miso sck ss : Pin) : Inv (acceptInit mosi miso sck ss s) := by
  refine Inv.of_parts ⟨rfl, by simp [frameOpen, Machine.acceptInit], rfl⟩ nofun (fun _ _ => ⟨nofun, nofun⟩) ?_
    ⟨h.pins, h.tx, h.rx⟩
  intro unmarked
  obtain ⟨distinct, valid⟩ := initMark_eq_none mosi miso sck ss unmarked
  exact Bool.or_eq_true_iff.2 (.inr (Bool.and_eq_true_iff.2 ⟨distinct, valid⟩))

/-- An acceptance step of an idle engine in a context keeps the invariant (R38, R150). -/
theorem Inv.accept_ctx (h : Inv s) (hs : s.seq = .idle) (hc : s.ctxValid = true) (i : Instr) : Inv (accept i s) := by
  cases i with
  | init mosi miso sck ss => exact h.acceptInit mosi miso sck ss
  | txbit bit => rw [accept, acceptTxbit_ctx bit s hc]; exact h.start hs hc (.mk ..) rfl rfl rfl rfl rfl id
  | rxbit => rw [accept, acceptRxbit_ctx s hc]; exact h.start hs hc (.mk ..) rfl rfl rfl rfl rfl id
  | xfer txByte => rw [accept, acceptXfer_ctx txByte s hc]; exact h.start hs hc (.mk ..) rfl rfl rfl rfl rfl id
  | trans length =>
    by_cases fits : length.toNat ≤ s.build.max
    · rw [accept, acceptTrans_fits length s hc fits]
      exact h.start hs hc (.mk ..) rfl rfl (by simp [indexFits, fits]) rfl rfl (transMark_eq_none length)
    · rw [accept, acceptTrans_exceeds length s hs hc (by omega)]
      exact h.of_unread

/-- Every acceptance step of an idle engine keeps the invariant (R38, R150). -/
theorem Inv.accept (h : Inv s) (hs : s.seq = .idle) (i : Instr) : Inv (accept i s) := by
  cases hc : s.ctxValid with
  | true => exact h.accept_ctx hs hc i
  | false =>
    cases hi : i.needsContext with
    | true => rw [accept_none i s hc hi]; exact h.clearResp.refuse hs .noContext
    | false =>
      cases i with
      | init mosi miso sck ss => exact h.acceptInit mosi miso sck ss
      | _ => cases hi

/-- A word presented to an idle engine keeps the invariant (R150). -/
theorem Inv.presentWord (h : Inv s) (hs : s.seq = .idle) (w : CmdWord) : Inv (presentWord w s) := by
  unfold Machine.presentWord
  cases decode w with
  | command i => exact h.accept hs i
  | invalid why => exact h.clearResp.refuse hs .reservedEncoding

/-- Reset keeps the invariant: without a context it asks for no level and for no pin (R38, R190). -/
theorem Inv.resetEngine (h : Inv s) : Inv (resetEngine s) :=
  Inv.of_parts ⟨rfl, by simp [frameOpen], rfl⟩ (fun _ => rfl) nofun (fun _ => rfl) ⟨h.pins, h.tx, h.rx⟩

/-- A store to `RX`, with one array or two, keeps the invariant (R69). -/
theorem Inv.putRx (h : Inv s) (i : Len) (v : Byte) (hi : inBuffer i s = true) : Inv (putRx i v s) := by
  have same : Machine.putRx i v s = { s with tx := (Machine.putRx i v s).tx, rx := (Machine.putRx i v s).rx } := by
    unfold Machine.putRx
    split <;> rfl
  rw [same]
  exact h.of_buffers (putRx_wf_tx i v s hi h.tx) (putRx_wf_rx i v s hi h.rx)

/-- Every move of the outside world keeps the invariant (R205). -/
theorem Entry.keeps_inv {m : Input} {u : State} (entry : Entry s m u) (h : Inv s) : Inv u := by
  cases entry with
  | word w hm hs => exact h.presentWord hs w
  | pass => exact h
  | reset => exact h.resetEngine
  | writeTx i v hi => exact h.of_buffers (Memory.wf_write s.tx i.toNat v _ (by simpa [inBuffer] using hi) h.tx) h.rx
  | writeRx i v hi => exact h.putRx i v hi
  | setMiso source => exact h.of_unread
  | setPinAck ack => exact h.of_unread

end

/-- Settles O56: a step is a step of the sequencer, or a move's entry and such steps, and each keeps the invariant. -/
theorem everyStepKeepsTheInvariant : Obligations.EveryStepKeepsTheInvariant := by
  intro s t h ht
  rcases step_entry s t ht with e | ⟨m, rest, u, k, -, entry, e⟩
  · exact tick_keeps_inv s t h e
  · exact ticks_keeps tick_keeps_inv k u t (entry.keeps_inv h.of_unread) e

/-- Settles O57: reset has no context and no pin and no buffer byte listed. -/
theorem resetMeetsTheInvariant : Obligations.ResetMeetsTheInvariant :=
  Inv.of_parts ⟨rfl, by decide, rfl⟩ (fun _ => rfl) nofun (fun _ => rfl) ⟨rfl, rfl, rfl⟩

/-- Settles O53: `State.reset` gives the four registers these values. -/
theorem resetStateHasTheSpecifiedValues : Obligations.ResetStateHasTheSpecifiedValues := ⟨rfl, rfl, rfl, rfl⟩

/-! ### The bus rules of R38 -/

/-- Outside INIT, SS is low only in an open frame (R38 item 4). -/
theorem Inv.selected_of_ss_low {s : State} (h : Inv s) (hc : s.ctxValid = true) (hd : cfgDistinct s = true)
    (mosi : s.seq ≠ .initMosi) (sck : s.seq ≠ .initSck) (ss : s.seq ≠ .initSs)
    (low : driven s.cfg.ss s = some false) : s.tsm = .selected := by
  have level : ssLevel s = some (!frameOpen s) := by
    unfold ssLevel
    split
    · exact absurd ‹_› mosi
    · exact absurd ‹_› sck
    · exact absurd ‹_› ss
    · rfl
  have driven := (h.ss hc hd _ level).symm.trans low
  exact h.tsm.2 (by simpa using driven)

/-- While a TRANS executes its index is at most its length, and its length fits the buffers (R38 item 7). -/
theorem Inv.index_le {s : State} (h : Inv s) (trans : s.op = .trans) (busy : s.seq ≠ .idle) :
    s.idx.toNat ≤ s.len.toNat ∧ s.len.toNat ≤ s.build.max := by
  have op := h.op
  have index := h.index
  cases hs : s.seq <;> simp [opFits, indexFits, hs, trans] at op index
  case idle => exact absurd hs busy
  case trSelect | trDeselect => exact ⟨by simp [index.2], index.1⟩
  all_goals exact ⟨index.2.le, index.1⟩

/-- Settles O58: each rule is the invariant's clause at its positions. -/
theorem invariantGivesTheBusRules : Obligations.InvariantGivesTheBusRules := by
  intro s h
  refine ⟨h.tsm_of_idle, h.ctx, fun hc hd => ⟨fun hs => h.levels_of_idle hs hc hd, h.selected_of_ss_low hc hd⟩,
    h.index_le, fun unmarked hc => ?_⟩
  have defined := h.contract unmarked
  simp only [pinsDefined, hc, Bool.not_true, Bool.false_or, Bool.and_eq_true] at defined
  exact defined.1

end Sys2Proof.Machine

/-! ## The PIN space and the host's buffer accesses (R51 to R56, R68, R69) -/

namespace Sys2Proof.Machine

/-! ### Pin writes and looks at pins -/

/-- A second write to an address takes the place of the first. -/
theorem Memory.write_write_same {α : Type} (m : List (Nat × α)) (a : Nat) (v w : α) :
    Memory.write (Memory.write m a v) a w = Memory.write m a w := by
  induction m with
  | nil => simp [Memory.write]
  | cons c m ih =>
    by_cases before : a < c.1
    · simp [Memory.write, before]
    · by_cases here : a = c.1
      · simp [Memory.write, here]
      · simp [Memory.write, before, here, ih]

/-- Settles O48: the second write replaces the first in the pin bank, and each leaves its event. -/
theorem repeatedPinWritesAreIdempotent : Obligations.RepeatedPinWritesAreIdempotent :=
  fun p l s => ⟨Memory.write_write_same s.pins p.toNat l l, by simp⟩

/-- A look at a valid pin other than MISO sees the level last driven on it, whatever the outside world shows; the power-up
level where nothing has driven it (R33, R37, R52). -/
theorem inspectPin_driven (p : Pin) (draw : Level) (s : State) (defined : pinsDefined s = true)
    (valid : s.build.isValid p = true) (other : s.ctxValid = true → p ≠ s.cfg.miso) :
    inspectPin p draw s = (driven p s).getD (Config.powerUpLevel p.toNat) := by
  rw [inspectPin_other p draw s other, wireLevel, if_pos (Bool.and_eq_true_iff.2 ⟨defined, valid⟩), Option.getD_some, driven]

/-- Settles O46: such a look reads the pin bank, in which a write changes its own pin only. -/
theorem pinReadsReturnTheLastSetLevel : Obligations.PinReadsReturnTheLastSetLevel := by
  intro p q l draw draw' s defined valid other
  have write (r : Pin) : driven r (pinWrite p l s) = if r = p then some l else driven r s := driven_of_write p r l rfl
  refine ⟨?_, fun last => ?_, fun ne other_q valid_q => ?_⟩
  · rw [inspectPin_driven p draw (pinWrite p l s) defined valid other, write, if_pos rfl, Option.getD_some]
  · rw [inspectPin_driven p draw s defined valid other, last, Option.getD_some]
  · rw [inspectPin_driven q draw (pinWrite p l s) defined valid_q other_q, write, if_neg ne,
      inspectPin_driven q draw' s defined valid_q other_q]

/-! ### The host's reads and writes of the buffers -/

/-- Settles O51: the host's read is there exactly on an idle engine inside the buffer. -/
theorem hostReadsBuffersOnlyWhileIdle : Obligations.HostReadsBuffersOnlyWhileIdle := by
  refine fun s i => ⟨fun idle inside => ?_, fun away => ?_⟩
  · have tx := (hostReadTx_eq_some i s _).2 ⟨idle, inside, rfl⟩
    have rx := (hostReadRx_eq_some i s _).2 ⟨idle, inside, rfl⟩
    refine ⟨tx, rx, fun one => ?_⟩
    rw [tx, rx, rxByte, if_pos one]
  · have barred : ¬ (s.seq = .idle ∧ i.toNat < s.build.max) := fun ⟨idle, inside⟩ =>
      away.elim (fun busy => busy idle) (Nat.not_le.2 inside)
    constructor <;> refine Option.eq_none_iff_forall_ne_some.2 fun v read => barred ?_
    · obtain ⟨idle, inside, -⟩ := (hostReadTx_eq_some i s v).1 read
      exact ⟨idle, inside⟩
    · obtain ⟨idle, inside, -⟩ := (hostReadRx_eq_some i s v).1 read
      exact ⟨idle, inside⟩

/-- Whether an index is inside the buffers depends on the build only (R50). -/
theorem inBuffer_iff (i : Len) (s : State) : inBuffer i s = true ↔ i.toNat < s.build.max := decide_eq_true_iff

/-- The host's write of a byte of `TX` on an engine that lets it happen (R68, R56). -/
theorem takeInput_writeTx (i : Len) (v : Byte) (s : State) :
    takeInput (.writeTx i v) s = if i.toNat < s.build.max then .next (putTx i v s) else .fault (.txIndex i) := by
  simp only [takeInput, inBuffer_iff]

/-- The host's write of a byte of `RX` on an engine that lets it happen (R68, R56). -/
theorem takeInput_writeRx (i : Len) (v : Byte) (s : State) :
    takeInput (.writeRx i v) s = if i.toNat < s.build.max then .next (putRx i v s) else .fault (.rxIndex i) := by
  simp only [takeInput, inBuffer_iff]

/-- A store to `RX` writes one of the two arrays and nothing else (R69). -/
theorem putRx_eq (i : Len) (v : Byte) (s : State) :
    putRx i v s = { s with tx := (putRx i v s).tx, rx := (putRx i v s).rx } := by
  unfold putRx
  split <;> rfl

/-- A store to `RX` leaves every other address of both arrays, with one array or with two (R69). -/
theorem read_putRx_other (i : Len) (v : Byte) (s : State) (a : Nat) (ne : a ≠ i.toNat) :
    Memory.read (putRx i v s).tx a = Memory.read s.tx a ∧ Memory.read (putRx i v s).rx a = Memory.read s.rx a := by
  rw [putRx_tx, putRx_rx]
  cases s.build.bufAlias with
  | true => exact ⟨Memory.read_write_other _ _ _ _ ne, rfl⟩
  | false => exact ⟨rfl, Memory.read_write_other _ _ _ _ ne⟩

/-- Settles O50: the write waits on a busy engine; an idle one stores the byte or faults. -/
theorem hostWritesBuffersOnlyWhileIdle : Obligations.HostWritesBuffersOnlyWhileIdle := by
  intro s i v rest
  constructor <;> intro move <;> refine ⟨step_waits s _ rest move rfl, fun idle inside => ?_, fun idle outside => ?_⟩
  · refine ⟨putTx i v { s with env := rest }, ?_, rfl, Memory.read_write_same _ _ _, ?_,
      fun a ne => Memory.read_write_other _ _ _ _ ne⟩
    · rw [step_takes s _ rest move (.inr idle), takeInput_writeTx, if_pos inside]
    · rw [txByte, putTx_tx, Memory.read_write_same, Option.getD_some]
  · rw [step_takes s _ rest move (.inr idle), takeInput_writeTx, if_neg (Nat.not_lt.2 outside)]
  · refine ⟨putRx i v { s with env := rest }, ?_, putRx_eq i v _, ?_, fun two => ?_, fun one => ?_,
      read_putRx_other i v { s with env := rest }⟩
    · rw [step_takes s _ rest move (.inr idle), takeInput_writeRx, if_pos inside]
    · rw [rxByte_putRx, if_pos rfl]
    · simp [two]
    · simp [one]
  · rw [step_takes s _ rest move (.inr idle), takeInput_writeRx, if_neg (Nat.not_lt.2 outside)]

/-! ### What stops the machine -/

/-- Where a byte is loaded or stored the index is inside the buffers (R38 item 7). -/
theorem PositionFits.idx_lt_max {s : State} (h : PositionFits s) (hs : s.seq = .trLoad ∨ s.seq = .trStore) :
    s.idx.toNat < s.build.max := by
  have index := h.index
  rcases hs with hs | hs <;>
  · simp only [indexFits, hs, Bool.and_eq_true, decide_eq_true_eq] at index
    omega

/-- At a position that fits the control registers the sequencer always moves on: its indices are inside the buffers, and
the command of a byte is XFER or TRANS (R38 item 7, R154). -/
theorem PositionFits.tick_next {s : State} (h : PositionFits s) : ∃ t, tick s = .next t := by
  have pin (done : State) : ∃ t, pinStep done s = .next t := by
    unfold pinStep
    split <;> exact ⟨_, rfl⟩
  have op := h.op
  cases hs : s.seq
  case idle => exact ⟨s, tick_idle s hs⟩
  case xbFall =>
    rw [tick_xbFall s hs, fallStep]
    split
    · by_cases last : s.bitpos = 0
      · simp only [opFits, hs, Bool.or_eq_true, beq_iff_eq] at op
        rcases op with xfer | trans
        · exact ⟨_, afterFall_xfer _ last xfer⟩
        · exact ⟨_, afterFall_trans _ last trans⟩
      · exact ⟨_, afterFall_again _ last⟩
    · exact ⟨s, rfl⟩
  case trLoad => exact ⟨_, tick_load s hs (h.idx_lt_max (.inl hs))⟩
  case trStore => exact ⟨_, tick_store s hs (h.idx_lt_max (.inr hs))⟩
  all_goals simp only [tick, hs, writeThen, sampleStep, pin]

/-- A command's meaning always answers a next state. -/
theorem exec_next (i : Instr) (s : State) : ∃ t, exec i s = .next t := by
  rw [exec_wholeCommand, wholeCommand]
  repeat' split
  all_goals exact ⟨_, rfl⟩

/-- A called word always answers a next state, reserved or not (R163). -/
theorem callWord_next (w : CmdWord) (s : State) : ∃ t, callWord w s = .next t := by
  unfold callWord
  cases decode w with
  | command i => exact exec_next i s
  | invalid why => exact ⟨_, rfl⟩

/-- A move of the outside world leads to a next state, but for a host write outside its buffer (R56). -/
theorem PositionFits.takeInput_next {s : State} (h : PositionFits s) (m : Input) :
    (∃ t, takeInput m s = .next t) ∨ ∃ i v, s.build.max ≤ i.toNat ∧
      ((m = .writeTx i v ∧ takeInput m s = .fault (.txIndex i)) ∨
        (m = .writeRx i v ∧ takeInput m s = .fault (.rxIndex i))) := by
  cases m with
  | call w => exact .inl (callWord_next w s)
  | pass => exact .inl h.tick_next
  | writeTx i v =>
    by_cases inside : i.toNat < s.build.max
    · exact .inl ⟨_, (takeInput_writeTx i v s).trans (if_pos inside)⟩
    · exact .inr ⟨i, v, by omega, .inl ⟨rfl, (takeInput_writeTx i v s).trans (if_neg inside)⟩⟩
  | writeRx i v =>
    by_cases inside : i.toNat < s.build.max
    · exact .inl ⟨_, (takeInput_writeRx i v s).trans (if_pos inside)⟩
    · exact .inr ⟨i, v, by omega, .inr ⟨rfl, (takeInput_writeRx i v s).trans (if_neg inside)⟩⟩
  | _ => exact .inl ⟨_, rfl⟩

/-- A step, whatever it answers, is a step of the sequencer or a move of the outside world that the engine lets happen. -/
theorem step_eq (s : State) :
    step s = tick s ∨ ∃ m rest, s.env = m :: rest ∧ (needsIdle m = false ∨ s.seq = .idle) ∧
      step s = takeInput m { s with env := rest } := by
  rcases he : s.env with - | ⟨m, rest⟩
  · exact .inl (step_nil s he)
  · cases hm : needsIdle m with
    | false => exact .inr ⟨m, rest, rfl, .inl hm, step_takes s m rest he (.inl hm)⟩
    | true =>
      by_cases hs : s.seq = .idle
      · exact .inr ⟨m, rest, rfl, .inr hs, step_takes s m rest he (.inr hs)⟩
      · exact .inl (step_waits s m rest he hm hs)

/-- Inside the invariant a step leads to a next state, or takes a host write outside its buffer on an idle engine. -/
theorem Inv.step_next {s : State} (h : Inv s) :
    (∃ t, step s = .next t) ∨ s.seq = .idle ∧ ∃ i v rest, s.build.max ≤ i.toNat ∧
      ((s.env = .writeTx i v :: rest ∧ step s = .fault (.txIndex i)) ∨
        (s.env = .writeRx i v :: rest ∧ step s = .fault (.rxIndex i))) := by
  rcases step_eq s with same | ⟨m, rest, he, ok, takes⟩
  · rw [same]
    exact .inl h.position.tick_next
  · have entered : PositionFits { s with env := rest } := h.of_unread.position
    rw [he, takes]
    rcases entered.takeInput_next m with next | ⟨i, v, outside, ⟨rfl, stops⟩ | ⟨rfl, stops⟩⟩
    · exact .inl next
    · exact .inr ⟨ok.resolve_left nofun, i, v, rest, outside, .inl ⟨rfl, stops⟩⟩
    · exact .inr ⟨ok.resolve_left nofun, i, v, rest, outside, .inr ⟨rfl, stops⟩⟩

/-- Settles O60: the step's answer is a next state or one of the two named faults, never a refusal. -/
theorem onlyAHostWriteOutsideTheBufferFaults : Obligations.OnlyAHostWriteOutsideTheBufferFaults := by
  intro s h
  rcases h.step_next with ⟨t, next⟩ | ⟨idle, i, v, rest, outside, ⟨move, stops⟩ | ⟨move, stops⟩⟩
  · rw [next]
    exact ⟨nofun, nofun⟩
  all_goals
    rw [stops]
    refine ⟨nofun, fun r fault => ⟨idle, i, v, rest, outside, ?_⟩⟩
    cases fault
  · exact .inl ⟨move, rfl⟩
  · exact .inr ⟨move, rfl⟩

end Sys2Proof.Machine

/-! ## The frame of a TRANS, byte by byte (R140, R143, R69) -/

namespace Sys2Proof.Machine

/-! ### One byte of a frame -/

section
variable (s : State)

@[simp] theorem exchangeByte_cfg : (exchangeByte s).cfg = s.cfg := by
  obtain ⟨samples, source, draws, -, e⟩ := exchangeByte_spec s
  rw [e]

@[simp] theorem frameByte_cfg : (frameByte s).cfg = s.cfg := by
  obtain ⟨samples, source, draws, -, e⟩ := frameByte_spec s
  rw [e]

@[simp] theorem storeByte_misoSource : (storeByte s).misoSource = s.misoSource := memWriteRx_misoSource s.idx s.rxb s

@[simp] theorem storeByte_trace : (storeByte s).trace = s.trace ++ [.rxWrite s.idx s.rxb] :=
  memWriteRx_trace s.idx s.rxb s

/-- A byte of a frame leaves every byte of `TX` but its own, with one array or with two (R69). -/
theorem txByte_frameByte (j : Len) (ne : j ≠ s.idx) : txByte j (frameByte s) = txByte j s := by
  obtain ⟨samples, source, draws, -, e⟩ := frameByte_spec s
  rw [← txByte_putRx s.idx j (assembleMsbFirst samples) s ne]
  exact txByte_congr j _ _ (by rw [e])

/-- With a list source a byte takes its next eight levels (R34, R130). -/
theorem exchangeByte_list (given rest : List Level) (hg : given.length = 8)
    (hs : s.misoSource = .list (given ++ rest)) :
    (exchangeByte s).rxb = assembleMsbFirst given ∧ (exchangeByte s).misoSource = .list rest ∧
      (exchangeByte s).trace = s.trace ++ byteEvents s.cfg s.txb given := by
  obtain ⟨rxb, source, trace⟩ := bitCycles_list 8 s given rest hg hs
  exact ⟨rxb.trans (insertBelow_all _ _ hg), source, trace⟩

/-- With a list source a byte of a frame takes its next eight levels (R34). -/
theorem frameByte_list (given rest : List Level) (hg : given.length = 8) (hs : s.misoSource = .list (given ++ rest)) :
    (frameByte s).misoSource = .list rest ∧
      (frameByte s).trace = s.trace ++
        (.txRead s.idx (txByte s.idx s) ::
          (byteEvents s.cfg (txByte s.idx s) given ++ [.rxWrite s.idx (assembleMsbFirst given)])) := by
  obtain ⟨rxb, source, trace⟩ := exchangeByte_list (loadByte s) given rest hg hs
  obtain ⟨-, -, idx, -⟩ := exchangeByte_frame (loadByte s)
  constructor
  · rw [frameByte, storeByte_misoSource, source]
  · rw [frameByte, storeByte_trace, rxb, trace, idx]
    simp [loadByte_eq]

/-- The samples of a byte can be read off its events. -/
theorem byteEvents_injective (c : PinConfig) (v : Byte) (xs ys : List Level) (hx : xs.length = 8) (hy : ys.length = 8)
    (h : byteEvents c v xs = byteEvents c v ys) : xs = ys :=
  bitEvents_injective c (bitsMsbFirst v) xs ys hx hy h

/-- A byte of a frame in eight samples: its events, the byte of `RX` they make, and the next levels of a list source. -/
theorem frameByte_samples :
    ∃ samples, samples.length = 8 ∧
      (frameByte s).trace = s.trace ++
        (.txRead s.idx (txByte s.idx s) ::
          (byteEvents s.cfg (txByte s.idx s) samples ++ [.rxWrite s.idx (assembleMsbFirst samples)])) ∧
      (∀ j, rxByte j (frameByte s) = if j = s.idx then assembleMsbFirst samples else rxByte j s) ∧
      ∀ given rest, given.length = 8 → s.misoSource = .list (given ++ rest) →
        samples = given ∧ (frameByte s).misoSource = .list rest := by
  obtain ⟨samples, source, draws, hl, e⟩ := frameByte_spec s
  refine ⟨samples, hl, by rw [e], fun j => ?_, fun given rest hg hs => ?_⟩
  · rw [← rxByte_putRx]
    exact rxByte_congr j _ _ (by rw [e, putRx_build]) (by rw [e]) (by rw [e])
  · obtain ⟨source', trace⟩ := frameByte_list s given rest hg hs
    rw [e, List.append_cancel_left_eq, List.cons_inj_right] at trace
    obtain ⟨bytes, -⟩ := List.append_inj' trace rfl
    exact ⟨byteEvents_injective s.cfg _ samples given hl hg bytes, source'⟩

end

/-! ### The byte loop -/

/-- The bytes `TX[i .. i+k-1]`. -/
def bytesFrom (i : Len) (k : Nat) (s : State) : List Byte :=
  (List.range k).map fun j => txByte (i + BitVec.ofNat 32 j) s

theorem bytesFrom_zero (n : Nat) (s : State) : bytesFrom 0 n s = sentBytes n s := by
  simp only [bytesFrom, sentBytes, zero_add]

/-- The index after `i` is `j` further on than `i` is `j + 1`. -/
theorem index_add_succ (i : Len) (j : Nat) : i + BitVec.ofNat 32 (j + 1) = i + 1 + BitVec.ofNat 32 j := by bv_omega

theorem bytesFrom_succ (i : Len) (k : Nat) (s : State) :
    bytesFrom i (k + 1) s = txByte i s :: bytesFrom (i + 1) k s := by
  simp only [bytesFrom, List.range_succ_eq_map, List.map_cons, List.map_map, Function.comp_def, Nat.succ_eq_add_one,
    index_add_succ, BitVec.add_zero]

/-- A byte of a frame leaves the bytes still to be sent as they were (R69, R143). -/
theorem bytesFrom_frameByte (k : Nat) (s : State) (hk : s.idx.toNat + k + 1 < 4294967296) :
    bytesFrom (s.idx + 1) k (frameByte s) = bytesFrom (s.idx + 1) k s := by
  refine List.map_congr_left fun j hj => txByte_frameByte s _ fun e => ?_
  have := List.mem_range.1 hj
  bv_omega

section
variable (k : Nat) (s : State)

@[simp] theorem frameBytes_cfg : (frameBytes k s).cfg = s.cfg := by
  induction k generalizing s with
  | zero => rfl
  | succ k ih => rw [frameBytes, ih, frameByte_cfg]

@[simp] theorem frameBytes_build : (frameBytes k s).build = s.build := by
  induction k generalizing s with
  | zero => rfl
  | succ k ih =>
    obtain ⟨-, -, -, -, build⟩ := frameByte_frame s
    rw [frameBytes, ih, build]

/-- The byte loop leaves the bytes of `RX` before its index. -/
theorem rxByte_frameBytes_before (j : Len) (hj : j.toNat < s.idx.toNat) (hk : s.idx.toNat + k < 4294967296) :
    rxByte j (frameBytes k s) = rxByte j s := by
  induction k generalizing s with
  | zero => rfl
  | succ k ih =>
    obtain ⟨idx, -⟩ := frameByte_frame s
    have index : (s.idx + 1).toNat = s.idx.toNat + 1 := by bv_omega
    obtain ⟨samples, -, -, rx, -⟩ := frameByte_samples s
    have ne : j ≠ s.idx := fun e => by simp [e] at hj
    rw [frameBytes, ih (frameByte s) (by rw [idx]; omega) (by rw [idx]; omega), rx, if_neg ne]

/-- The byte loop in its samples: the events of its bytes as `TX` held them before, the bytes of `RX` they make, and the
next levels of a list source (R140, R143). -/
theorem frameBytes_samples (hk : s.idx.toNat + k < 4294967296) :
    ∃ samples, samples.length = k ∧ (∀ x ∈ samples, x.length = 8) ∧
      (frameBytes k s).trace = s.trace ++ frameEvents s.cfg s.idx (List.zip (bytesFrom s.idx k s) samples) ∧
      (∀ j, j < k → rxByte (s.idx + BitVec.ofNat 32 j) (frameBytes k s) = assembleMsbFirst (samples.getD j [])) ∧
      ∀ given rest, given.length = k → (∀ x ∈ given, x.length = 8) → s.misoSource = .list (given.flatten ++ rest) →
        samples = given ∧ (frameBytes k s).misoSource = .list rest := by
  induction k generalizing s with
  | zero =>
    refine ⟨[], rfl, nofun, by simp [frameBytes, bytesFrom, frameEvents], nofun, fun given rest hg _ hs => ?_⟩
    obtain rfl := List.length_eq_zero_iff.1 hg
    exact ⟨rfl, hs⟩
  | succ k ih =>
    obtain ⟨idx, -⟩ := frameByte_frame s
    have index : (s.idx + 1).toNat = s.idx.toNat + 1 := by bv_omega
    obtain ⟨lead, hlead, trace, rx, source⟩ := frameByte_samples s
    obtain ⟨others, hothers, heach, trace', rx', source'⟩ := ih (frameByte s) (by rw [idx]; omega)
    refine ⟨lead :: others, by rw [List.length_cons, hothers], List.forall_mem_cons.2 ⟨hlead, heach⟩, ?_,
      fun j hj => ?_, fun given rest hg hgiven hs => ?_⟩
    · rw [frameBytes, trace', trace, frameByte_cfg, idx, bytesFrom_frameByte k s (by omega), bytesFrom_succ]
      simp [frameEvents]
    · cases j with
      | zero =>
        rw [frameBytes, BitVec.add_zero,
          rxByte_frameBytes_before k (frameByte s) s.idx (by rw [idx]; omega) (by rw [idx]; omega), rx, if_pos rfl]
        rfl
      | succ j => rw [frameBytes, index_add_succ, ← idx, rx' j (by omega)]; rfl
    · match given, hg with
      | x :: xs, hg =>
        obtain ⟨hx, hxs⟩ := List.forall_mem_cons.1 hgiven
        obtain ⟨rfl, left⟩ := source x (xs.flatten ++ rest) hx (by rw [hs, List.flatten_cons, List.append_assoc])
        obtain ⟨rfl, last⟩ := source' xs rest (by simpa using hg) hxs left
        exact ⟨rfl, last⟩

end

/-! ### The whole frame -/

section
variable (n : Len) (s : State)

@[simp] theorem runTrans_cfg : (runTrans n s).cfg = s.cfg := frameBytes_cfg n.toNat (selectSlave s)

@[simp] theorem runTrans_build : (runTrans n s).build = s.build := frameBytes_build n.toNat (selectSlave s)

/-- The events of a TRANS from index 0 in its samples: SS low, the bytes as `TX` held them before, SS high; the bytes of
`RX` the samples make, and the next levels of a list source (R140). -/
theorem runTrans_samples (hi : s.idx = 0) :
    ∃ samples, samples.length = n.toNat ∧ (∀ x ∈ samples, x.length = 8) ∧
      (runTrans n s).trace = s.trace ++ .pinWrite s.cfg.ss false ::
        (frameEvents s.cfg 0 (List.zip (sentBytes n.toNat s) samples) ++ [.pinWrite s.cfg.ss true]) ∧
      (∀ k, k < n.toNat → rxByte (BitVec.ofNat 32 k) (runTrans n s) = assembleMsbFirst (samples.getD k [])) ∧
      ∀ given rest, given.length = n.toNat → (∀ x ∈ given, x.length = 8) →
        s.misoSource = .list (given.flatten ++ rest) → samples = given ∧ (runTrans n s).misoSource = .list rest := by
  have start : (selectSlave s).idx = 0 := hi
  obtain ⟨samples, hl, heach, trace, rx, source⟩ :=
    frameBytes_samples n.toNat (selectSlave s) (by rw [start]; exact (Nat.zero_add _).trans_lt n.isLt)
  rw [start, bytesFrom_zero] at trace
  refine ⟨samples, hl, heach, ?_, fun k hk => ?_, source⟩
  · have sent : sentBytes n.toNat (selectSlave s) = sentBytes n.toNat s := rfl
    simp only [runTrans, respond_trace, deselectSlave, pinWrite_trace, trace, sent, frameBytes_cfg]
    simp [selectSlave]
  · rw [← rx k hk, start, zero_add]
    exact rxByte_congr _ _ _ rfl rfl rfl

/-- TRANS within bounds on a ready engine runs from index 0 (R140, R141). -/
theorem exec_trans_runs (hr : ready s = true) (hn : n.toNat ≤ s.build.max) :
    exec (.trans n) s = .next (runTrans n
      { s with respValid := false, op := .trans, len := n, idx := 0, seq := .trSelect, mark := transMark n s }) := by
  simp only [ready, Bool.and_eq_true, beq_iff_eq] at hr
  obtain ⟨⟨idle, ctx⟩, acks⟩ := hr
  have accepted := acceptTrans_fits n s ctx hn
  rw [← accepted]
  exact wholeCommand_runs _ _ s idle (by rw [accepted]; nofun) acks

end

/-- Settles O28: the samples are the given ones, and with one array the byte of `RX` they make is the byte of `TX`. -/
theorem aliasedTransExchangesInPlace : Obligations.AliasedTransExchangesInPlace := by
  intro n s given rest hr hn one hg hgiven hs
  obtain ⟨samples, -, -, trace, rx, source⟩ := runTrans_samples n
    { s with respValid := false, op := .trans, len := n, idx := 0, seq := .trSelect, mark := transMark n s } rfl
  obtain ⟨rfl, -⟩ := source given rest hg hgiven hs
  refine ⟨_, exec_trans_runs n s hr hn, trace, fun k hk => ?_⟩
  rw [← rx k hk, rxByte, if_pos (by rw [runTrans_build]; exact one)]

end Sys2Proof.Machine

/-! ## The pins each command writes and reads (R54) -/

namespace Sys2Proof.Machine

/-- The pins R54 lets a command read. -/
def mayRead (i : Instr) (b : Build) (c : PinConfig) (p : Pin) : Prop :=
  match i with
  | .init _ _ _ _ => False
  | .txbit _ => False
  | .rxbit => p = c.miso
  | .xfer _ => p = c.miso
  | .trans n => n.toNat ≤ b.max ∧ p = c.miso

/-- The pins R54 lets a command write. -/
def mayWrite (i : Instr) (b : Build) (c : PinConfig) (p : Pin) : Prop :=
  match i with
  | .init _ _ _ _ => p = c.mosi ∨ p = c.sck ∨ p = c.ss
  | .txbit _ => p = c.mosi ∨ p = c.sck
  | .rxbit => p = c.sck
  | .xfer _ => p = c.mosi ∨ p = c.sck
  | .trans n => n.toNat ≤ b.max ∧ (p = c.mosi ∨ p = c.sck ∨ p = c.ss)

/-- What R54 asks of one event of a command. -/
def mayHappen (i : Instr) (b : Build) (c : PinConfig) : Event → Prop
  | .pinWrite p _ => mayWrite i b c p
  | .pinRead p _ => mayRead i b c p
  | .txRead _ _ => True
  | .rxWrite _ _ => True

/-- With distinct pins no command may write a pin that it may read (R54, R196). -/
theorem not_mayWrite_of_mayRead (i : Instr) (b : Build) (c : PinConfig) (p : Pin)
    (hd : pinsDistinct c.mosi c.miso c.sck c.ss = true) (hr : mayRead i b c p) : ¬ mayWrite i b c p := by
  simp only [pinsDistinct, Bool.and_eq_true, bne_iff_ne] at hd
  obtain ⟨⟨⟨⟨⟨mosi, -⟩, -⟩, sck⟩, ss⟩, -⟩ := hd
  cases i with
  | init | txbit => exact hr.elim
  | rxbit => obtain rfl := hr; exact sck
  | xfer txByte => obtain rfl := hr; exact not_or.2 ⟨mosi.symm, sck⟩
  | trans n =>
    obtain ⟨-, rfl⟩ := hr
    rintro ⟨-, e | e | e⟩
    · exact mosi e.symm
    · exact sck e
    · exact ss e

/-! ### The events of a byte and of a frame -/

/-- The events of a byte are those an XFER may have (R112, R130). -/
theorem byteEvents_mayHappen (v v' : Byte) (b : Build) (c : PinConfig) (samples : List Level) :
    ∀ e ∈ byteEvents c v samples, mayHappen (.xfer v') b c e := by
  intro e he
  rw [byteEvents, ← List.map_uncurry_zip_eq_zipWith] at he
  obtain ⟨es, hes, he⟩ := List.mem_flatten.1 he
  obtain ⟨⟨bit, sample⟩, -, rfl⟩ := List.mem_map.1 hes
  simp only [Function.uncurry, bitEvents, List.mem_cons, List.not_mem_nil, or_false] at he
  rcases he with rfl | rfl | rfl | rfl
  · exact .inl rfl
  · exact .inr rfl
  · exact rfl
  · exact .inr rfl

/-- What an XFER may do a TRANS within bounds may do (R54). -/
theorem mayHappen_trans_of_xfer (n : Len) (v : Byte) (b : Build) (c : PinConfig) (hn : n.toNat ≤ b.max) (e : Event)
    (h : mayHappen (.xfer v) b c e) : mayHappen (.trans n) b c e := by
  cases e with
  | pinWrite p l => exact ⟨hn, h.imp_right .inl⟩
  | pinRead p l => exact ⟨hn, h⟩
  | txRead | rxWrite => trivial

/-- The events of a frame within bounds are those a TRANS may have (R140). -/
theorem frameEvents_mayHappen (n : Len) (b : Build) (c : PinConfig) (hn : n.toNat ≤ b.max)
    (frames : List (Byte × List Level)) (i : Len) : ∀ e ∈ frameEvents c i frames, mayHappen (.trans n) b c e := by
  induction frames generalizing i with
  | nil => nofun
  | cons frame frames ih =>
    obtain ⟨v, samples⟩ := frame
    have byte (e : Event) (he : e ∈ byteEvents c v samples) : mayHappen (.trans n) b c e :=
      mayHappen_trans_of_xfer n v b c hn e (byteEvents_mayHappen v v b c samples e he)
    simp only [frameEvents, List.forall_mem_cons, List.forall_mem_append]
    exact ⟨trivial, byte, trivial, ih (i + 1)⟩

/-! ### The events of each command -/

/-- The events of a command leave the Configuration (R21). -/
theorem eventsOf_cfg (i : Instr) (s : State) : (eventsOf i s).cfg = s.cfg := by
  cases i with
  | init | txbit | rxbit => rfl
  | xfer txByte => exact exchangeByte_cfg s
  | trans length => exact runTrans_cfg length s

section
variable (s : State)

theorem runInit_trace :
    (runInit s).trace = s.trace ++ [.pinWrite s.cfg.mosi false, .pinWrite s.cfg.sck false, .pinWrite s.cfg.ss true] := by
  simp [runInit]

theorem runTxbit_trace (bit : Level) :
    (runTxbit bit s).trace = s.trace ++ [.pinWrite s.cfg.mosi bit, .pinWrite s.cfg.sck true, .pinWrite s.cfg.sck false] := by
  simp [runTxbit]

theorem runRxbit_trace :
    (runRxbit s).trace = s.trace ++
      [.pinWrite s.cfg.sck true, .pinRead s.cfg.miso (sampleMiso (pinWrite s.cfg.sck true s)).level,
       .pinWrite s.cfg.sck false] := by
  simp [runRxbit]

theorem runXfer_trace :
    ∃ samples, samples.length = 8 ∧ (runXfer s).trace = s.trace ++ byteEvents s.cfg s.txb samples := by
  obtain ⟨samples, source, draws, hl, e⟩ := exchangeByte_spec s
  exact ⟨samples, hl, by rw [runXfer, respond_trace, e]⟩

end

/-- A command that starts has the events that R54 lets it have. -/
theorem eventsOf_mayHappen (i : Instr) (s : State) (hs : s.seq = .idle) (h : (accept i s).seq ≠ .idle) :
    ∃ es, (eventsOf i (accept i s)).trace = (accept i s).trace ++ es ∧
      ∀ e ∈ es, mayHappen i s.build (accept i s).cfg e := by
  cases i with
  | init mosi miso sck ss => exact ⟨_, runInit_trace _, by simp [mayHappen, mayWrite]⟩
  | txbit bit => exact ⟨_, runTxbit_trace _ bit, by simp [mayHappen, mayWrite]⟩
  | rxbit => exact ⟨_, runRxbit_trace _, by simp [mayHappen, mayRead, mayWrite]⟩
  | xfer txByte =>
    obtain ⟨samples, -, trace⟩ := runXfer_trace (accept (.xfer txByte) s)
    exact ⟨_, trace, byteEvents_mayHappen _ txByte s.build _ samples⟩
  | trans length =>
    have ctx := ctxValid_of_starts _ s rfl h
    have fits := length_le_max_of_starts length s hs ctx h
    rw [accept, acceptTrans_fits length s ctx fits]
    obtain ⟨samples, -, -, trace, -⟩ := runTrans_samples length
      { s with respValid := false, op := .trans, len := length, idx := 0, seq := .trSelect, mark := transMark length s }
      rfl
    refine ⟨_, trace, ?_⟩
    simp only [List.forall_mem_cons, List.forall_mem_append]
    exact ⟨⟨fits, .inr (.inr rfl)⟩, frameEvents_mayHappen length s.build s.cfg fits _ 0, ⟨fits, .inr (.inr rfl)⟩, nofun⟩

/-- The events of a command's meaning are those R54 lets it have, in the Configuration it ends with. -/
theorem exec_mayHappen (i : Instr) (s t : State) (h : exec i s = .next t) :
    ∃ es, t.trace = s.trace ++ es ∧ ∀ e ∈ es, mayHappen i s.build t.cfg e := by
  have accepted : (accept i s).trace = s.trace := by
    obtain ⟨-, -, -, -, -, -, -, trace⟩ := accept_outside i s
    exact trace
  rw [exec_wholeCommand] at h
  rcases wholeCommand_next _ _ s t h with ⟨-, rfl⟩ | ⟨-, rfl⟩ | ⟨idle, starts, -, rfl⟩
  · exact ⟨[], (List.append_nil _).symm, nofun⟩
  · exact ⟨[], accepted.trans (List.append_nil _).symm, nofun⟩
  · rw [eventsOf_cfg, ← accepted]
    exact eventsOf_mayHappen i s idle starts

/-- Settles O45: what each event may be, read off for reads and writes; MISO, the one pin that is read, is none of those
written. -/
theorem commandsTouchOnlyTheirPins : Obligations.CommandsTouchOnlyTheirPins := by
  intro i s t h
  obtain ⟨es, trace, each⟩ := exec_mayHappen i s t h
  have read (p : Pin) (l : Level) (he : Event.pinRead p l ∈ es) : mayRead i s.build t.cfg p := each _ he
  have written (p : Pin) (l : Level) (he : Event.pinWrite p l ∈ es) : mayWrite i s.build t.cfg p := each _ he
  exact ⟨es, trace, read, written, fun hd p l l' hr hw =>
    not_mayWrite_of_mayRead i s.build t.cfg p hd (read p l hr) (written p l' hw)⟩

end Sys2Proof.Machine

/-! ## The encoding: the pattern rows, the reserved words and the response word (R80 to R85) -/

namespace Sys2Proof.Machine

open Laws.Opcode (code)

/-! ### A word is its operation code and its operand field -/

/-- Every word is put together from its operation code and its operand field (R80). -/
theorem opcOf_append_operand (w : CmdWord) : (opcOf w ++ w.extractLsb' 0 32 : CmdWord) = w :=
  BitVec.extractLsb'_append_extractLsb'

/-- An operation code and an operand field can be read off the word they make (R80). -/
theorem word_inj (opc opc' : Byte) (arg arg' : BitVec 32) :
    (opc ++ arg : CmdWord) = opc' ++ arg' ↔ opc = opc' ∧ arg = arg' := by
  refine ⟨fun h => ⟨?_, ?_⟩, fun ⟨hopc, harg⟩ => by rw [hopc, harg]⟩
  · simpa only [Laws.Opcode.opcOf_append] using congrArg opcOf h
  · simpa only [BitVec.extractLsb'_append_eq_right] using congrArg (BitVec.extractLsb' 0 32) h

/-- The bits of an `n`-bit field from `k` up are zero exactly when a mask that leaves open the bits below `k` finds none
(R82, R84). -/
theorem field_and_mask_eq_zero {v : Nat} (w : BitVec v) (n k : Nat) :
    w.extractLsb' 0 n &&& (BitVec.allOnes n <<< k) = 0 ↔ w.extractLsb' k (n - k) = 0 := by
  constructor <;> intro h <;> ext j hj
  · have bit := congrArg (·.getLsbD (k + j)) h
    simpa [show k + j < n by omega, show k + j - k < n by omega] using bit
  · have bit := congrArg (·.getLsbD (j - k)) h
    by_cases hk : j < k
    · simp [hk]
    · simpa [show j - k < n - k by omega, show k + (j - k) = j by omega, show j - k < n by omega, hk] using bit

/-- Where the bits of an `n`-bit field from `k` up are zero, the field is the zero extension of its lower `k` bits
(R82). -/
theorem setWidth_field {v : Nat} (w : BitVec v) (n k : Nat) (zero : w.extractLsb' k (n - k) = 0) :
    (w.extractLsb' 0 k).setWidth n = w.extractLsb' 0 n := by
  ext j hj
  by_cases hk : j < k
  · simp [hk]
  · have bit := congrArg (·.getLsbD (j - k)) zero
    have clear : w.getLsbD j = false := by
      simpa [show j - k < n - k by omega, show k + (j - k) = j by omega] using bit
    simp [hk, clear]

/-- The operand field of an INIT is the four pins it is cut into (R82). -/
theorem append_pins (w : CmdWord) :
    (w.extractLsb' 24 8 ++ (w.extractLsb' 16 8 ++ (w.extractLsb' 8 8 ++ w.extractLsb' 0 8)) : BitVec 32) =
      w.extractLsb' 0 32 := by
  rw [BitVec.extractLsb'_append_extractLsb'_eq_extractLsb' (start₂ := 8) rfl,
    BitVec.extractLsb'_append_extractLsb'_eq_extractLsb' (start₂ := 16) rfl,
    BitVec.extractLsb'_append_extractLsb'_eq_extractLsb' (start₂ := 24) rfl]

/-- The bit of a TXBIT is the lowest bit of the word (R82). -/
theorem ofBool_getLsbD_zero (w : CmdWord) : BitVec.ofBool (w.getLsbD 0) = w.extractLsb' 0 1 := by
  ext j hj
  simp [show j = 0 by omega]

/-! ### The encoder inverts the decoder (R85) -/

/-- The encoder writes back every word that decodes: each field it writes is the one the decoder cut out (R85). -/
theorem encode_of_decode (w : CmdWord) (i : Instr) (h : decode w = .command i) : encode i = w := by
  suffices encode i = opcOf w ++ w.extractLsb' 0 32 from this.trans (opcOf_append_operand w)
  unfold decode at h
  split at h
  case isTrue opc =>
    cases h
    rw [encode, append_pins, opc]; rfl
  split at h
  case isTrue opc =>
    split at h <;> cases h
    next zero => rw [encode, ofBool_getLsbD_zero, setWidth_field w 32 1 zero, opc]; rfl
  split at h
  case isTrue opc =>
    split at h <;> cases h
    next zero => rw [encode, zero, opc]; rfl
  split at h
  case isTrue opc =>
    split at h <;> cases h
    next zero => rw [encode, setWidth_field w 32 8 zero, opc]; rfl
  split at h <;> cases h
  next opc => rw [encode, opc]; rfl

/-- The words that decode to a command are one: its encoding (R85). -/
theorem decode_eq_command_iff (w : CmdWord) (i : Instr) : decode w = .command i ↔ w = encode i :=
  ⟨fun h => (encode_of_decode w i h).symm, fun h => h ▸ decode_encode i⟩

/-- Settles O1: `decode_encode`, command by command. -/
theorem decodeReadsBackEveryEncodedCommand : Obligations.DecodeReadsBackEveryEncodedCommand := decode_encode

/-- Settles O2: `encode_of_decode`, arm by arm of the decoder. -/
theorem encodeWritesBackEveryDecodedWord : Obligations.EncodeWritesBackEveryDecodedWord := encode_of_decode

/-- Settles O5, the five words decoded. -/
theorem sampleWordsDecode : Obligations.SampleWordsDecode := by
  unfold Obligations.SampleWordsDecode
  decide

/-! ### The rows of the match and mask table (R82) -/

/-- How many of the lower operand bits a command uses; those above must be zero (R82). -/
def operandWidth : Instr → Nat
  | .init _ _ _ _ => 32
  | .txbit _ => 1
  | .rxbit => 0
  | .xfer _ => 8
  | .trans _ => 32

/-- The row of a command: it fixes the operation code, and zero in every operand bit the command does not use (R82). -/
def rowOf (i : Instr) : Pattern :=
  { mnemonic := i.mnemonic, pat := code i ++ 0#32, mask := 0xFF#8 ++ (BitVec.allOnes 32 <<< operandWidth i) }

/-- The table is the rows of the five commands. -/
theorem patterns_eq :
    patterns = [rowOf (.init 0 0 0 0), rowOf (.txbit false), rowOf .rxbit, rowOf (.xfer 0), rowOf (.trans 0)] := by decide

/-- Every command has its row in the table. -/
theorem rowOf_mem_patterns (i : Instr) : rowOf i ∈ patterns := by
  rw [patterns_eq]
  cases i with
  | init mosi miso sck ss => exact .head _
  | txbit bit => exact .tail _ (.head _)
  | rxbit => exact .tail _ (.tail _ (.head _))
  | xfer txByte => exact .tail _ (.tail _ (.tail _ (.head _)))
  | trans length => exact .tail _ (.tail _ (.tail _ (.tail _ (.head _))))

/-- Commands of one mnemonic have one row: no two rows of the table share theirs. -/
theorem rowOf_eq_of_mnemonic (i j : Instr) (h : i.mnemonic = j.mnemonic) : rowOf i = rowOf j := by
  have distinct : (patterns.map Pattern.mnemonic).Nodup := by decide
  exact List.inj_on_of_nodup_map distinct (rowOf_mem_patterns i) (rowOf_mem_patterns j) h

/-- Every row of the table is some command's. -/
theorem exists_rowOf_of_mem (row : Pattern) (h : row ∈ patterns) : ∃ i, row = rowOf i := by
  rw [patterns_eq] at h
  simp only [List.mem_cons, List.not_mem_nil, or_false] at h
  rcases h with h | h | h | h | h <;> exact ⟨_, h⟩

/-- What a row selects: the words of its operation code with zero in the operand bits it fixes (R82). -/
theorem selects_rowOf (i : Instr) (w : CmdWord) :
    (rowOf i).selects w = true ↔ opcOf w = code i ∧ w.extractLsb' (operandWidth i) (32 - operandWidth i) = 0 := by
  have whole (opc : Byte) : opc &&& 0xFF#8 = opc := BitVec.and_allOnes
  conv_lhs => rw [← opcOf_append_operand w]
  rw [Pattern.selects, beq_iff_eq, rowOf, BitVec.and_append, word_inj, whole]
  exact and_congr_right' (field_and_mask_eq_zero w 32 _)

/-- The encoder writes a command's own operation code (R81). -/
theorem opcOf_encode (i : Instr) : opcOf (encode i) = code i := by
  cases i with
  | init mosi miso sck ss => exact Laws.Opcode.init mosi miso sck ss
  | txbit bit => exact Laws.Opcode.txbit bit
  | rxbit => exact Laws.Opcode.rxbit
  | xfer txByte => exact Laws.Opcode.xfer txByte
  | trans length => exact Laws.Opcode.trans length

/-- The encoder writes zero in every operand bit the command does not use (R82, R84). -/
theorem extractLsb'_encode (i : Instr) : (encode i).extractLsb' (operandWidth i) (32 - operandWidth i) = 0 := by
  cases i with
  | init mosi miso sck ss => exact BitVec.of_length_zero
  | txbit bit => cases bit <;> decide
  | rxbit => decide
  | xfer txByte =>
    refine (BitVec.extractLsb'_append_eq_of_add_le (show 8 + 24 ≤ 32 by decide)).trans ?_
    ext j hj
    simp [operandWidth]
  | trans length => exact BitVec.of_length_zero

/-- A word of an operation code that has zero where its row asks for it decodes to a command of that row (R82, R85). -/
theorem exists_decode_of_fields (i : Instr) (w : CmdWord) (opc : opcOf w = code i)
    (zero : w.extractLsb' (operandWidth i) (32 - operandWidth i) = 0) :
    ∃ j, decode w = .command j ∧ j.mnemonic = i.mnemonic := by
  cases i with
  | init mosi miso sck ss => exact ⟨_, if_pos opc, rfl⟩
  | txbit bit =>
    refine ⟨.txbit (w.getLsbD 0), ?_, rfl⟩
    simp [decode, show opcOf w = 0x02 from opc, show w.extractLsb' 1 31 = 0 from zero]
  | rxbit =>
    refine ⟨.rxbit, ?_, rfl⟩
    simp [decode, show opcOf w = 0x03 from opc, show w.extractLsb' 0 32 = 0 from zero]
  | xfer txByte =>
    refine ⟨.xfer (w.extractLsb' 0 8), ?_, rfl⟩
    simp [decode, show opcOf w = 0x04 from opc, show w.extractLsb' 8 24 = 0 from zero]
  | trans length =>
    refine ⟨.trans (w.extractLsb' 0 32), ?_, rfl⟩
    simp [decode, show opcOf w = 0x05 from opc]

/-- A row selects the words that decode to a command of its mnemonic (R82, R85). -/
theorem selects_iff_decode (row : Pattern) (h : row ∈ patterns) (w : CmdWord) :
    row.selects w = true ↔ ∃ i, decode w = .command i ∧ i.mnemonic = row.mnemonic := by
  obtain ⟨i, rfl⟩ := exists_rowOf_of_mem row h
  constructor
  · intro selected
    obtain ⟨opc, zero⟩ := (selects_rowOf i w).1 selected
    exact exists_decode_of_fields i w opc zero
  · rintro ⟨j, decoded, same⟩
    rw [← rowOf_eq_of_mnemonic j i same, (decode_eq_command_iff w j).1 decoded]
    exact (selects_rowOf j _).2 ⟨opcOf_encode j, extractLsb'_encode j⟩

/-- Settles O3: each row is a command's, which fixes what it selects and what its words decode to. -/
theorem patternRowsSelectTheirOwnCommand : Obligations.PatternRowsSelectTheirOwnCommand := selects_iff_decode

/-! ### The reserved words (R84) -/

/-- The well-formed words are those that decode to a command (R84, R85). -/
theorem wordWellFormed_iff_decode (w : CmdWord) : wordWellFormed w = true ↔ ∃ i, decode w = .command i := by
  rw [wordWellFormed, List.any_eq_true]
  constructor
  · rintro ⟨row, mem, selected⟩
    obtain ⟨i, decoded, -⟩ := (selects_iff_decode row mem w).1 selected
    exact ⟨i, decoded⟩
  · rintro ⟨i, decoded⟩
    exact ⟨rowOf i, rowOf_mem_patterns i, (selects_iff_decode _ (rowOf_mem_patterns i) w).2 ⟨i, decoded, rfl⟩⟩

/-- The words the decoder refuses are those that match no pattern (R84, R85). -/
theorem decode_invalid_iff (w : CmdWord) : (∃ why, decode w = .invalid why) ↔ wordWellFormed w = false := by
  rw [← Bool.not_eq_true, wordWellFormed_iff_decode]
  cases decode w <;> simp

/-- The well-formed words by their fields: five operation codes, three of them with bits that must be zero (R82). -/
theorem wordWellFormed_iff_fields (w : CmdWord) :
    wordWellFormed w = true ↔
      opcOf w = 0x01 ∨ (opcOf w = 0x02 ∧ w.extractLsb' 1 31 = 0) ∨ (opcOf w = 0x03 ∧ w.extractLsb' 0 32 = 0) ∨
        (opcOf w = 0x04 ∧ w.extractLsb' 8 24 = 0) ∨ opcOf w = 0x05 := by
  have init : (rowOf (.init 0 0 0 0)).selects w = true ↔ opcOf w = 0x01 :=
    (selects_rowOf _ w).trans (and_iff_left BitVec.of_length_zero)
  have txbit : (rowOf (.txbit false)).selects w = true ↔ opcOf w = 0x02 ∧ w.extractLsb' 1 31 = 0 := selects_rowOf _ w
  have rxbit : (rowOf .rxbit).selects w = true ↔ opcOf w = 0x03 ∧ w.extractLsb' 0 32 = 0 := selects_rowOf _ w
  have xfer : (rowOf (.xfer 0)).selects w = true ↔ opcOf w = 0x04 ∧ w.extractLsb' 8 24 = 0 := selects_rowOf _ w
  have trans : (rowOf (.trans 0)).selects w = true ↔ opcOf w = 0x05 :=
    (selects_rowOf _ w).trans (and_iff_left BitVec.of_length_zero)
  simp only [wordWellFormed, patterns_eq, List.any_cons, List.any_nil, Bool.or_eq_true, Bool.false_eq_true, or_false,
    init, txbit, rxbit, xfer, trans]

/-- An operation code that names no command (R81). -/
theorem unassigned_opcode_iff (opc : Byte) :
    (opc = 0x00 ∨ 0x06 ≤ opc.toNat) ↔ opc ≠ 0x01 ∧ opc ≠ 0x02 ∧ opc ≠ 0x03 ∧ opc ≠ 0x04 ∧ opc ≠ 0x05 := by
  bv_omega

/-- Settles O4: no pattern matches, which the fields say is one of R84's kinds. -/
theorem reservedWordsAreTheListedOnes : Obligations.ReservedWordsAreTheListedOnes := by
  intro w
  refine ⟨decode_invalid_iff w, ?_⟩
  rw [decode_invalid_iff, ← Bool.not_eq_true, wordWellFormed_iff_fields, ← or_assoc (a := opcOf w = 0x00),
    unassigned_opcode_iff]
  by_cases two : opcOf w = 0x02
  · simp [two]
  by_cases three : opcOf w = 0x03
  · simp [three]
  by_cases four : opcOf w = 0x04
  · simp [four]
  tauto

/-! ### The response word (R83) -/

/-- Settles O6, status by status. -/
theorem responseWordCarriesStatusAndData : Obligations.ResponseWordCarriesStatusAndData := by
  intro s
  have upper : (respWord s).extractLsb' 8 2 = s.respStatus.code := BitVec.extractLsb'_append_eq_left
  refine ⟨BitVec.extractLsb'_append_eq_right, ?_, ?_⟩ <;> rw [upper]
  · cases s.respStatus <;> rfl
  · cases s.respStatus <;> decide

/-! ### What a command answers (R160, R162, R163) -/

/-- The events of a command end in its `OK`. -/
theorem eventsOf_respStatus (i : Instr) (s : State) : (eventsOf i s).respStatus = .ok := by
  cases i <;> rfl

/-- The two answers an acceptance step gives: the refusal of a command without its context, and the failure of an
over-long TRANS (R141, R150, R163). -/
theorem accept_answers (i : Instr) (s : State) (hs : s.seq = .idle) (h : (accept i s).respValid = true) :
    (s.ctxValid = false ∧ i.needsContext = true ∧ (accept i s).respStatus = .refused) ∨
      (s.ctxValid = true ∧ (∃ n, i = .trans n ∧ s.build.max < n.toNat) ∧ (accept i s).respStatus = .failLength) := by
  cases hc : s.ctxValid with
  | false =>
    cases hi : i.needsContext with
    | false => cases i <;> cases hi; cases h
    | true => exact .inl ⟨rfl, rfl, by rw [accept_none i s hc hi]; rfl⟩
  | true =>
    cases i with
    | init mosi miso sck ss => cases h
    | txbit bit => rw [accept, acceptTxbit_ctx bit s hc] at h; cases h
    | rxbit => rw [accept, acceptRxbit_ctx s hc] at h; cases h
    | xfer txByte => rw [accept, acceptXfer_ctx txByte s hc] at h; cases h
    | trans n =>
      by_cases hn : n.toNat ≤ s.build.max
      · rw [accept, acceptTrans_fits n s hc hn] at h; cases h
      · exact .inr ⟨rfl, ⟨n, rfl, by omega⟩, by rw [accept, acceptTrans_exceeds n s hs hc (by omega)]⟩

/-- Settles O32: an answer is given at acceptance, or is the `OK` of a command that started, which has its context and
is within bounds. -/
theorem failuresAndRefusalsAreTheListedOnes : Obligations.FailuresAndRefusalsAreTheListedOnes := by
  intro i s t hs h answered
  rw [exec_wholeCommand] at h
  rcases wholeCommand_next _ _ s t h with ⟨busy, -⟩ | ⟨-, rfl⟩ | ⟨-, starts, -, rfl⟩
  · exact absurd hs busy
  · rcases accept_answers i s hs answered with ⟨ctx, needs, status⟩ | ⟨ctx, long, status⟩
    · simp [ctx, needs, status]
    · simp [ctx, long, status]
  · rw [eventsOf_respStatus]
    refine ⟨iff_of_false nofun ?_, iff_of_false nofun ?_⟩
    · rintro ⟨ctx, n, rfl, long⟩
      exact absurd (length_le_max_of_starts n s hs ctx starts) (by omega)
    · rintro ⟨ctx, needs⟩
      simp [ctxValid_of_starts i s needs starts] at ctx

/-! ### The ports and the event of a step (R89, R90) -/

/-- The event a pin step adds is that of its end: a step that waits adds none (R89). -/
theorem pinStep_event {done s t : State} {e e' : Event} (h : pinStep done s = .next t)
    (hd : done.trace = s.trace ++ [e']) (he : t.trace = s.trace ++ [e]) : e' = e := by
  rcases pinStep_next done s t h with ⟨-, rfl⟩ | ⟨-, rfl⟩
  · simpa using hd.symm.trans he
  · simp at he

/-- The one event of `XB_FALL`, whatever it goes on to (R154). -/
theorem fallStep_event {s t : State} {e : Event} (h : fallStep s = .next t) (he : t.trace = s.trace ++ [e]) :
    .pinWrite s.cfg.sck false = e := by
  rcases fallStep_next s t h with rfl | rfl | ⟨-, rfl⟩ | ⟨-, rfl⟩
  · simp at he
  all_goals simpa [moveTo] using he

/-- The event of a load (R155). -/
theorem loadStep_event {s t : State} {e : Event} (h : loadStep s = .next t) (he : t.trace = s.trace ++ [e]) :
    .txRead s.idx (txByte s.idx s) = e := by
  obtain ⟨-, rfl⟩ := loadStep_next s t h
  simpa [moveTo, loadByte_eq] using he

/-- The event of a store (R155). -/
theorem storeStep_event {s t : State} {e : Event} (h : storeStep s = .next t) (he : t.trace = s.trace ++ [e]) :
    .rxWrite s.idx s.rxb = e := by
  obtain ⟨-, rfl⟩ := storeStep_next s t h
  simpa [moveTo, storeByte] using he

/-- What the ports show of an event: its request, and for a buffer event its index and byte (R89, R90). -/
def PortsShow (s : State) (e : Event) : Prop :=
  requestOf e = pinRequest s ∧ (∀ i v, e = .txRead i v → txPort s = some i) ∧
    (∀ i v, e = .rxWrite i v → rxPort s = some (i, v))

/-- At every position the ports show the event the step adds (R89, R90, R151 to R156). -/
theorem tick_portsShow {s t : State} {e : Event} (h : tick s = .next t) (he : t.trace = s.trace ++ [e]) :
    PortsShow s e := by
  have write {p : Pin} {l : Level} {done : State} (step : pinStep done s = .next t)
      (hd : done.trace = s.trace ++ [.pinWrite p l]) (port : pinRequest s = some (writeRequest p l)) : PortsShow s e := by
    cases pinStep_event step hd he
    exact ⟨port.symm, nofun, nofun⟩
  have sample {i : BitVec 3} {q : Seq} (step : sampleStep i q s = .next t)
      (port : pinRequest s = some (readRequest s.cfg.miso)) : PortsShow s e := by
    cases pinStep_event step (readMiso_trace s) he
    exact ⟨port.symm, nofun, nofun⟩
  cases hs : s.seq <;> simp only [tick, hs] at h
  case idle => cases h; simp at he
  case rbSample | xbSample => exact sample h (by simp [pinRequest, hs])
  case xbFall => cases fallStep_event h he; exact ⟨by simp [pinRequest, requestOf, hs], nofun, nofun⟩
  case trLoad =>
    cases loadStep_event h he
    refine ⟨by simp [pinRequest, requestOf, hs], ?_, nofun⟩
    rintro i v ⟨⟩
    simp [txPort, hs]
  case trStore =>
    cases storeStep_event h he
    refine ⟨by simp [pinRequest, requestOf, hs], nofun, ?_⟩
    rintro i v ⟨⟩
    simp [rxPort, hs]
  all_goals exact write h rfl (by simp [pinRequest, hs])

/-- Settles O49, position by position. -/
theorem portsShowWhatTheStepDoes : Obligations.PortsShowWhatTheStepDoes :=
  fun _ => ⟨beq_iff_eq, fun _ _ => tick_portsShow⟩

end Sys2Proof.Machine

/-! ## INIT: what it does to an idle engine, what it leaves, and its mark (R100, R101, R102) -/

namespace Sys2Proof.Machine

/-! ### The levels INIT's three writes leave -/

section
variable (s : State)

/-- The pin bank after INIT's events: of the three writes the last one to an address stands (R51, R100). -/
theorem read_runInit_pins (a : Nat) :
    Memory.read (runInit s).pins a =
      if a = s.cfg.ss.toNat then some true else if a = s.cfg.sck.toNat then some false
      else if a = s.cfg.mosi.toNat then some false else Memory.read s.pins a := by
  simp only [runInit, respond_pins, pinWrite_pins, Memory.read_write]

/-- With distinct pins INIT's events end with the bus idle: MOSI low, SCK low, SS high (R100, R196). -/
theorem runInit_drives_idleBus (hd : cfgDistinct s = true) :
    driven s.cfg.mosi (runInit s) = some false ∧ driven s.cfg.sck (runInit s) = some false ∧
      driven s.cfg.ss (runInit s) = some true := by
  obtain ⟨-, ss_mosi, ss_sck⟩ := cfgDistinct_ne hd
  simp [driven, read_runInit_pins, pin_toNat_ne ss_mosi.symm, pin_toNat_ne ss_sck.symm]

/-- INIT's events write no pin but the three of the Configuration (R54, R100). -/
theorem runInit_pins_other (a : Nat) (mosi : a ≠ s.cfg.mosi.toNat) (sck : a ≠ s.cfg.sck.toNat)
    (ss : a ≠ s.cfg.ss.toNat) : Memory.read (runInit s).pins a = Memory.read s.pins a := by
  rw [read_runInit_pins, if_neg ss, if_neg sck, if_neg mosi]

end

/-! ### INIT on an engine -/

section
variable (mosi miso sck ss : Pin) (s : State)

/-- INIT on an idle engine whose Pin Interface answers starts, with or without a context, and runs to its end (R100,
R150). -/
theorem exec_init_runs (hs : s.seq = .idle) (hp : s.pinAck = true) :
    exec (.init mosi miso sck ss) s = .next (runInit (acceptInit mosi miso sck ss s)) :=
  wholeCommand_runs _ _ s hs nofun hp

/-- INIT leaves an unmarked run unmarked exactly when its operands keep the contract (R102, R175; log 6). -/
theorem initMark_eq_none_iff (unmarked : s.mark = none) :
    initMark mosi miso sck ss s = none ↔ Instr.inContract s.build (.init mosi miso sck ss) = true := by
  rw [Instr.inContract, Bool.and_eq_true]
  refine ⟨initMark_eq_none mosi miso sck ss, ?_⟩
  rintro ⟨distinct, valid⟩
  rw [initMark, if_pos distinct, if_pos valid, unmarked]

end

/-- Settles O11: the registers are those of acceptance and the response, the trace and the levels those of the three
writes. -/
theorem initDrivesTheIdleBus : Obligations.InitDrivesTheIdleBus := by
  intro mosi miso sck ss s hs hp
  exact ⟨_, exec_init_runs mosi miso sck ss s hs hp, rfl, rfl, rfl, rfl, rfl, rfl, rfl, rfl, runInit_trace _,
    runInit_drives_idleBus (acceptInit mosi miso sck ss s)⟩

/-- Settles O12: a busy engine keeps its state, acceptance writes no pin, and the events write the three pins of the new
Configuration. -/
theorem initFrame : Obligations.InitFrame := by
  intro mosi miso sck ss s t h
  rcases wholeCommand_next _ _ s t h with ⟨-, rfl⟩ | ⟨-, rfl⟩ | ⟨-, -, -, rfl⟩
  · exact ⟨rfl, fun _ _ _ _ => rfl⟩
  · exact ⟨rfl, fun _ _ _ _ => rfl⟩
  · exact ⟨rfl, runInit_pins_other (acceptInit mosi miso sck ss s)⟩

/-- Settles O13: the run's mark is the one of acceptance, for the events set none. -/
theorem initMarksARunOutsideTheContract : Obligations.InitMarksARunOutsideTheContract := by
  intro mosi miso sck ss s hs hp unmarked
  exact ⟨_, exec_init_runs mosi miso sck ss s hs hp, initMark_eq_none_iff mosi miso sck ss s unmarked⟩

end Sys2Proof.Machine

/-! ## The mode-0 edges: where the engine requests each line of the bus, and what SCK is there (R114) -/

namespace Sys2Proof.Machine

/-! ### Requests -/

@[simp] theorem writeRequest_inj (p q : Pin) (l m : Level) :
    writeRequest p l = writeRequest q m ↔ p = q ∧ l = m := by
  cases l <;> cases m <;> simp [writeRequest]

@[simp] theorem writeRequest_ne_readRequest (p q : Pin) (l : Level) : writeRequest p l ≠ readRequest q := by
  cases l <;> simp [writeRequest, readRequest]

@[simp] theorem readRequest_ne_writeRequest (p q : Pin) (l : Level) : readRequest q ≠ writeRequest p l :=
  (writeRequest_ne_readRequest p q l).symm

section
variable {s t : State} {l : Level}

/-- Outside INIT only the two set-up positions request a write of MOSI (R110, R112). -/
theorem seq_of_mosiRequest (fits : opFits s = true) (hd : cfgDistinct s = true) (ho : s.op ≠ .init)
    (h : pinRequest s = some (writeRequest s.cfg.mosi l)) : s.seq = .tbSetup ∨ s.seq = .xbSetup := by
  obtain ⟨sck_ne, ss_ne, -⟩ := cfgDistinct_ne hd
  cases hs : s.seq <;> simp only [pinRequest, opFits, hs] at h fits
  case tbSetup => exact .inl rfl
  case xbSetup => exact .inr rfl
  case initMosi => simp [ho] at fits
  all_goals simp [sck_ne, ss_ne] at h

/-- Only the two sample positions request a read (R111, R112). -/
theorem seq_of_readRequest {p : Pin} (h : pinRequest s = some (readRequest p)) :
    s.seq = .rbSample ∨ s.seq = .xbSample := by
  cases hs : s.seq <;> simp only [pinRequest, hs] at h
  case rbSample => exact .inl rfl
  case xbSample => exact .inr rfl
  all_goals simp at h

/-- Outside INIT a position that requests a write of SCK presupposes the other level (R38 item 6, R114). -/
theorem sckLevel_of_sckRequest (fits : opFits s = true) (hd : cfgDistinct s = true) (ho : s.op ≠ .init)
    (h : pinRequest s = some (writeRequest s.cfg.sck l)) : sckLevel s.seq = some (!l) := by
  obtain ⟨mosi_ne, -, ss_ne⟩ := cfgDistinct_ne hd
  cases hs : s.seq <;> simp only [pinRequest, opFits, hs] at h fits
  case tbRise | tbFall | rbRise | rbFall | xbRise | xbFall =>
    obtain ⟨-, rfl⟩ := (writeRequest_inj _ _ _ l).1 (Option.some.inj h)
    rfl
  case initSck => simp [ho] at fits
  all_goals simp [mosi_ne.symm, ss_ne] at h

/-- A set-up that has written its event is followed by the request of the rising edge (R110, R112). -/
theorem tick_setup_then_rise {e : Event} (hs : s.seq = .tbSetup ∨ s.seq = .xbSetup) (ht : tick s = .next t)
    (he : t.trace = s.trace ++ [e]) : pinRequest t = some (writeRequest s.cfg.sck true) := by
  have moved {done : State} (step : pinStep done s = .next t) : t = done := by
    rcases pinStep_next done s t step with ⟨-, rfl⟩ | ⟨-, rfl⟩
    · rfl
    · simp at he
  rcases hs with hs | hs
  · rw [moved ((tick_tbSetup s hs).symm.trans ht)]; rfl
  · rw [moved ((tick_xbSetup s hs).symm.trans ht)]; rfl

end

/-- Settles O59: the event of a step is the request of its position (R90), and the invariant gives SCK the level that the
position presupposes. -/
theorem modeZeroEdgesAreKept : Obligations.ModeZeroEdgesAreKept := by
  intro s t inv hc hd ho ht
  have requested {e : Event} (he : t.trace = s.trace ++ [e]) : pinRequest s = requestOf e :=
    (tick_portsShow ht he).1.symm
  have level : ∀ l, sckLevel s.seq = some l → driven s.cfg.sck s = some l := inv.sck hc hd
  refine ⟨fun l he => ?_, fun l he => ?_, fun l he => ?_⟩
  · have setup := seq_of_mosiRequest inv.op hd ho (requested he)
    refine ⟨level false ?_, tick_setup_then_rise setup ht he⟩
    rcases setup with hs | hs <;> rw [hs] <;> rfl
  · refine level true ?_
    rcases seq_of_readRequest (requested he) with hs | hs <;> rw [hs] <;> rfl
  · exact level (!l) (sckLevel_of_sckRequest inv.op hd ho (requested he))

end Sys2Proof.Machine

/-! ## TXBIT and RXBIT: what they do to a ready engine and what they leave (R110, R111, R113) -/

namespace Sys2Proof.Machine

section
variable (bit : Level) (s : State)

theorem ready_iff : ready s = true ↔ s.seq = .idle ∧ s.ctxValid = true ∧ s.pinAck = true := by
  simp [ready, and_assoc]

/-- A ready engine that accepts a command into a busy position runs it to its end (R150). -/
theorem exec_ready_runs (i : Instr) (hr : ready s = true) (starts : (accept i s).seq ≠ .idle) :
    exec i s = .next (eventsOf i (accept i s)) := by
  obtain ⟨idle, -, acks⟩ := (ready_iff s).1 hr
  rw [exec_wholeCommand, wholeCommand_runs _ _ s idle starts acks]

/-- Everything a command that needs a context can end in: the state itself on a busy engine, the refusal, or in a context
its acceptance and the end of its events (R150, R163). -/
theorem exec_needsContext_next (i : Instr) (hi : i.needsContext = true) {t : State} (h : exec i s = .next t) :
    t = s ∨ t = refuse .noContext (clearResp s) ∨
      (s.ctxValid = true ∧ (t = accept i s ∨ t = eventsOf i (accept i s))) := by
  rw [exec_wholeCommand] at h
  rcases wholeCommand_next _ _ s t h with ⟨-, rfl⟩ | ⟨-, rfl⟩ | ⟨-, starts, -, rfl⟩
  · exact .inl rfl
  · cases hc : s.ctxValid with
    | false => exact .inr (.inl (accept_none i s hc hi))
    | true => exact .inr (.inr ⟨rfl, .inl rfl⟩)
  · exact .inr (.inr ⟨ctxValid_of_starts i s hi starts, .inr rfl⟩)

/-! ### TXBIT -/

/-- TXBIT on a ready engine runs from its set-up (R110, R150). -/
theorem exec_txbit_runs (hr : ready s = true) :
    exec (.txbit bit) s = .next (runTxbit bit
      { s with respValid := false, op := .txbit, txb := byteOfLevel bit, seq := .tbSetup }) := by
  obtain ⟨-, ctx, -⟩ := (ready_iff s).1 hr
  rw [← acceptTxbit_ctx bit s ctx]
  exact exec_ready_runs s (.txbit bit) hr (by rw [accept, acceptTxbit_ctx bit s ctx]; nofun)

/-- The pin bank after TXBIT's events: SCK low, MOSI at the bit, every other pin as before (R110). -/
theorem read_runTxbit_pins (a : Nat) :
    Memory.read (runTxbit bit s).pins a =
      if a = s.cfg.sck.toNat then some false else if a = s.cfg.mosi.toNat then some bit
      else Memory.read s.pins a := by
  simp only [runTxbit, respond_pins, pinWrite_pins, Memory.read_write]
  split <;> rfl

/-! ### RXBIT -/

/-- RXBIT on a ready engine runs from its rising edge, with an empty receive byte (R111, R150). -/
theorem exec_rxbit_runs (hr : ready s = true) :
    exec .rxbit s = .next (runRxbit { s with respValid := false, op := .rxbit, rxb := 0x00, seq := .rbRise }) := by
  obtain ⟨-, ctx, -⟩ := (ready_iff s).1 hr
  rw [← acceptRxbit_ctx s ctx]
  exact exec_ready_runs s .rxbit hr (by rw [accept, acceptRxbit_ctx s ctx]; nofun)

/-- The pin bank after RXBIT's events: SCK low, every other pin as before (R111). -/
theorem read_runRxbit_pins (a : Nat) :
    Memory.read (runRxbit s).pins a = if a = s.cfg.sck.toNat then some false else Memory.read s.pins a := by
  simp only [runRxbit, respond_pins, pinWrite_pins, pinWrite_cfg, readMiso_pins, readMiso_cfg, Memory.read_write]
  split <;> rfl

variable {s}

/-- With a list source RXBIT samples its next level and leaves the rest (R34). -/
theorem runRxbit_list {l : Level} {ls : List Level} (h : s.misoSource = .list (l :: ls)) :
    (sampleMiso (pinWrite s.cfg.sck true s)).level = l ∧ (runRxbit s).misoSource = .list ls := by
  have sampled := sampleMiso_list l ls (pinWrite s.cfg.sck true s) h
  exact ⟨congrArg Sample.level sampled, congrArg Sample.source sampled⟩

/-- With a constant source RXBIT samples that level and leaves the source (R34). -/
theorem runRxbit_const {l : Level} (h : s.misoSource = .const l) :
    (sampleMiso (pinWrite s.cfg.sck true s)).level = l ∧ (runRxbit s).misoSource = .const l := by
  have sampled := sampleMiso_const l (pinWrite s.cfg.sck true s) h
  exact ⟨congrArg Sample.level sampled, congrArg Sample.source sampled⟩

end

/-- Settles O14: the registers are those of acceptance and the response, the trace and the levels those of the three
writes. -/
theorem txbitClocksOneBitOut : Obligations.TxbitClocksOneBitOut := by
  intro b s hr
  refine ⟨_, exec_txbit_runs b s hr, runTxbit_trace _ b, rfl, rfl, rfl, rfl, rfl, rfl, ?_, fun distinct => ?_⟩
  · rw [driven, read_runTxbit_pins, if_pos rfl]
  · rw [driven, read_runTxbit_pins, if_neg (pin_toNat_ne distinct), if_pos rfl]

/-- Settles O15: neither the refusal nor acceptance writes a pin, and the events write MOSI and SCK. -/
theorem txbitFrame : Obligations.TxbitFrame := by
  intro b s t h
  rcases exec_needsContext_next s (.txbit b) rfl h with rfl | rfl | ⟨ctx, rfl | rfl⟩
  · exact ⟨rfl, fun _ _ _ => rfl⟩
  · exact ⟨rfl, fun _ _ _ => rfl⟩
  · rw [accept, acceptTxbit_ctx b s ctx]
    exact ⟨rfl, fun _ _ _ => rfl⟩
  · rw [accept, acceptTxbit_ctx b s ctx]
    exact ⟨rfl, fun a mosi sck => (read_runTxbit_pins b _ a).trans ((if_neg sck).trans (if_neg mosi))⟩

/-- Settles O16: the sample between the two edges is the answer; inserted into an empty receive byte it is that byte
(R131), and a listed or constant source decides it (R34). -/
theorem rxbitReturnsTheSampledBit : Obligations.RxbitReturnsTheSampledBit := by
  intro s hr
  refine ⟨_, _, exec_rxbit_runs s hr, runRxbit_trace _, rfl, rfl, rfl, rfl, rfl, setBit_zero _, ?_,
    fun _ _ listed => runRxbit_list listed, fun _ const => runRxbit_const const⟩
  rw [driven, read_runRxbit_pins, if_pos rfl]

/-- Settles O17: neither the refusal nor acceptance writes a pin, and the events write SCK. -/
theorem rxbitFrame : Obligations.RxbitFrame := by
  intro s t h
  rcases exec_needsContext_next s .rxbit rfl h with rfl | rfl | ⟨ctx, rfl | rfl⟩
  · exact ⟨rfl, fun _ _ => rfl⟩
  · exact ⟨rfl, fun _ _ => rfl⟩
  · rw [accept, acceptRxbit_ctx s ctx]
    exact ⟨rfl, fun _ _ => rfl⟩
  · rw [accept, acceptRxbit_ctx s ctx]
    exact ⟨rfl, fun a sck => (read_runRxbit_pins _ a).trans (if_neg sck)⟩

/-- Settles O18: the first RXBIT leaves the engine ready, its Configuration and the rest of the list, so the second one
answers the next sample. -/
theorem twoRxbitsReadInOrder : Obligations.TwoRxbitsReadInOrder := by
  intro s a b ls hr listed
  obtain ⟨t, _, ht, -, idle, -, -, data, -, -, low, first, -⟩ := rxbitReturnsTheSampledBit s hr
  obtain ⟨rfl, rest⟩ := first a (b :: ls) listed
  obtain ⟨frame, -⟩ := rxbitFrame s t ht
  have cfg : t.cfg = s.cfg := by rw [frame]
  have ctx : t.ctxValid = s.ctxValid := by rw [frame]
  have acks : t.pinAck = s.pinAck := by rw [frame]
  have again : ready t = true := by
    obtain ⟨-, hc, hp⟩ := (ready_iff s).1 hr
    exact (ready_iff t).2 ⟨idle, ctx.trans hc, acks.trans hp⟩
  obtain ⟨u, _, hu, -, -, -, -, data', -, -, low', second, -⟩ := rxbitReturnsTheSampledBit t again
  obtain ⟨rfl, -⟩ := second b ls rest
  exact ⟨t, u, ht, hu, data, data', low, cfg ▸ low'⟩

end Sys2Proof.Machine

/-! ## XFER: one byte exchanged, the samples that decide it, and what it leaves (R57, R130, R131, R132) -/

namespace Sys2Proof.Machine

/-! ### Bits of a byte -/

/-- Bit extraction as arithmetic (R131). -/
theorem bitOf_iff (v : Byte) (i : BitVec 3) : bitOf v i = true ↔ v.toNat / 2 ^ i.toNat % 2 = 1 := by
  rw [bitOf, BitVec.getLsbD, Nat.testBit_eq_decide_div_mod_eq, decide_eq_true_iff]

/-- A level as a byte is that level at bit 0 (R83). -/
theorem getLsbD_byteOfLevel (l : Level) (n : Nat) : (byteOfLevel l).getLsbD n = (decide (n = 0) && l) := by
  cases n <;> cases l <;> simp [byteOfLevel]

/-- Bit extraction after bit insertion (R131). -/
theorem bitOf_setBit (v : Byte) (i j : BitVec 3) (l : Level) :
    bitOf (setBit v i l) j = if j = i then l else bitOf v j := by
  simp only [bitOf, getLsbD_setBit v i l j.toNat j.isLt, BitVec.toNat_inj]

/-- Insertion into a clear bit is an OR (R131). -/
theorem setBit_eq_or (v : Byte) (i : BitVec 3) (l : Level) (clear : bitOf v i = false) :
    setBit v i l = v ||| (byteOfLevel l <<< i.toNat) := by
  rw [bitOf] at clear
  refine BitVec.eq_of_getLsbD_eq fun j hj => ?_
  rw [getLsbD_setBit v i l j hj, BitVec.getLsbD_or, BitVec.getLsbD_shiftLeft, getLsbD_byteOfLevel]
  rcases lt_trichotomy j i.toNat with below | rfl | above
  · simp [below, below.ne]
  · rw [clear]
    simp [hj]
  · simp [above.ne', (Nat.sub_pos_of_lt above).ne']

/-- Insertion from position `k - 1` down to 0, bit by bit: the levels in order below `k`, the byte's own bits above. -/
theorem getLsbD_insertBelow (k : Nat) (hk : k ≤ 8) (v : Byte) (samples : List Level) (hl : samples.length = k)
    (j : Nat) (hj : j < 8) :
    (insertBelow k v samples).getLsbD j = if j < k then samples.getD (k - 1 - j) false else v.getLsbD j := by
  induction k generalizing v samples with
  | zero => rfl
  | succ k ih =>
    match samples, hl with
    | l :: ls, hl =>
      have position : (BitVec.ofNat 3 k).toNat = k := Nat.mod_eq_of_lt hk
      rw [insertBelow, ih (by omega) _ ls (by simpa using hl), getLsbD_setBit v _ l j hj, position]
      rcases lt_trichotomy j k with below | rfl | above
      · rw [if_pos below, if_pos (by omega), show k + 1 - 1 - j = k - 1 - j + 1 by omega, List.getD_cons_succ]
      · simp
      · rw [if_neg (by omega), if_neg (by omega), if_neg (by omega)]

/-- Sample `k` of a byte is its bit `7 - k` (R57). -/
theorem getLsbD_assembleMsbFirst (samples : List Level) (hl : samples.length = 8) (k : Nat) (hk : k < 8) :
    (assembleMsbFirst samples).getLsbD (7 - k) = samples.getD k false := by
  rw [← insertBelow_all 0 samples hl, getLsbD_insertBelow 8 le_rfl 0 samples hl (7 - k) (by omega), if_pos (by omega),
    show 8 - 1 - (7 - k) = k by omega]

/-- The bits a byte sends assemble to the byte again (R57). -/
theorem assembleMsbFirst_bitsMsbFirst (v : Byte) : assembleMsbFirst (bitsMsbFirst v) = v := by
  refine BitVec.eq_of_getLsbD_eq fun j hj => ?_
  have bit := getLsbD_assembleMsbFirst (bitsMsbFirst v) rfl (7 - j) (by omega)
  rw [show 7 - (7 - j) = j by omega] at bit
  rw [bit]
  interval_cases j <;> rfl

/-- Settles O22: extraction is a bit test, and insertion is judged bit by bit. -/
theorem bitsAreExtractedAndInsertedInPlace : Obligations.BitsAreExtractedAndInsertedInPlace :=
  fun v i j l => ⟨bitOf_iff v i, bitOf_setBit v i j l, setBit_eq_or v i l⟩

/-! ### The samples of a byte -/

/-- With a constant source a byte samples its level eight times (R34, R130). -/
theorem exchangeByte_const (s : State) (l : Level) (hs : s.misoSource = .const l) :
    (exchangeByte s).trace = s.trace ++ byteEvents s.cfg s.txb (List.replicate 8 l) :=
  (bitCycles_const 8 s l hs).2.2

/-! ### A byte with MISO wired to MOSI -/

/-- A context of distinct, valid pins and MISO wired to MOSI: the premise of R130 corner case (e). -/
structure Loopback (s : State) : Prop where
  source : s.misoSource = .loopback
  ctx : s.ctxValid = true
  defined : pinsDefined s = true

section
variable {s : State}

/-- The pins of a loopback are in the contract (R196, R197). -/
theorem Loopback.pins_valid (h : Loopback s) : cfgDistinct s = true ∧ s.build.isValid s.cfg.mosi = true := by
  have contract := h.defined
  simp only [pinsDefined, h.ctx, Bool.not_true, Bool.false_or, Bool.and_eq_true, pinsValid] at contract
  obtain ⟨distinct, ⟨⟨mosi, -⟩, -⟩, -⟩ := contract
  exact ⟨distinct, mosi⟩

/-- The rising edge of a bit cycle finds on the wire the bit just set up (R34, R112). -/
theorem Loopback.sampleMiso_eq (h : Loopback s) (b : Level) :
    sampleMiso (pinWrite s.cfg.sck true (pinWrite s.cfg.mosi b s)) =
      { level := b, source := .loopback, draws := s.draws } := by
  obtain ⟨distinct, mosi⟩ := h.pins_valid
  obtain ⟨sck_ne_mosi, -⟩ := cfgDistinct_ne distinct
  have defined : pinsDefined (pinWrite s.cfg.sck true (pinWrite s.cfg.mosi b s)) = true := h.defined
  simp [sampleMiso, h.source, wireLevel, defined, mosi, Memory.read_write, pin_toNat_ne sck_ne_mosi.symm]

/-- A bit cycle receives the bit it sends, and leaves the byte to send and the loopback (R112). -/
theorem Loopback.bitCycle_receives (h : Loopback s) (i : BitVec 3) :
    (bitCycle i s).rxb = setBit s.rxb i (bitOf s.txb i) ∧ (bitCycle i s).txb = s.txb ∧ Loopback (bitCycle i s) := by
  have e := xbit_eq (bitOf s.txb i) s
  rw [h.sampleMiso_eq] at e
  rw [bitCycle, e]
  exact ⟨rfl, rfl, rfl, h.ctx, h.defined⟩

/-- The positions `k - 1` down to 0 receive the bits they send (R130). -/
theorem Loopback.bitCycles_rxb (h : Loopback s) (k : Nat) :
    (bitCycles k s).rxb = insertBelow k s.rxb (bitsBelow k s.txb) := by
  induction k generalizing s with
  | zero => rfl
  | succ k ih =>
    obtain ⟨rxb, txb, kept⟩ := h.bitCycle_receives (BitVec.ofNat 3 k)
    rw [bitCycles, ih kept, rxb, txb, bitsBelow, insertBelow]

/-- A byte receives the byte it sends (R130 corner case e). -/
theorem Loopback.exchangeByte_rxb (h : Loopback s) : (exchangeByte s).rxb = s.txb :=
  calc (exchangeByte s).rxb
    _ = insertBelow 8 s.rxb (bitsMsbFirst s.txb) := h.bitCycles_rxb 8
    _ = assembleMsbFirst (bitsMsbFirst s.txb) := insertBelow_all s.rxb _ rfl
    _ = s.txb := assembleMsbFirst_bitsMsbFirst s.txb

end

/-! ### XFER -/

section
variable (v : Byte) (s : State)

/-- Where XFER's events start: at the set-up of bit 7, with an empty receive byte (R130, R150). -/
def xferStart : State :=
  { s with respValid := false, op := .xfer, txb := v, rxb := 0x00, bitpos := 7, seq := .xbSetup }

/-- Acceptance of an XFER in a context is that start (R150). -/
theorem accept_xfer_eq (hc : s.ctxValid = true) : accept (.xfer v) s = xferStart v s := acceptXfer_ctx v s hc

/-- XFER on a ready engine runs from its start (R130, R150). -/
theorem exec_xfer_runs (hr : ready s = true) : exec (.xfer v) s = .next (runXfer (xferStart v s)) := by
  obtain ⟨-, ctx, -⟩ := (ready_iff s).1 hr
  rw [← accept_xfer_eq v s ctx]
  exact exec_ready_runs s (.xfer v) hr (by rw [accept_xfer_eq v s ctx]; nofun)

/-- Everything XFER's events do from their start: eight samples, whose byte is the answer, the 32 events and the pins of
a byte; a list source decides the samples by its next eight levels, a constant source by its level (R34, R130, R132). -/
theorem runXfer_spec :
    ∃ samples source draws, samples.length = 8 ∧ runXfer (xferStart v s) =
      { s with
        op := .xfer, txb := v, bitpos := 0, rxb := assembleMsbFirst samples, pins := pinsAfterByte s.cfg v s.pins,
        trace := s.trace ++ byteEvents s.cfg v samples, misoSource := source, draws := draws,
        respStatus := .ok, respData := assembleMsbFirst samples, respValid := true, seq := .idle } ∧
      (∀ given rest, given.length = 8 → s.misoSource = .list (given ++ rest) → samples = given ∧ source = .list rest) ∧
      ∀ l, s.misoSource = .const l → samples = List.replicate 8 l := by
  obtain ⟨samples, source, draws, hl, e⟩ := exchangeByte_spec (xferStart v s)
  have sampled (given : List Level) (hg : given.length = 8)
      (trace : (exchangeByte (xferStart v s)).trace = s.trace ++ byteEvents s.cfg v given) : samples = given := by
    rw [e] at trace
    exact byteEvents_injective s.cfg v samples given hl hg (List.append_cancel_left trace)
  refine ⟨samples, source, draws, hl, by rw [runXfer, e]; simp only [respond, xferStart],
    fun given rest hg hs => ?_, fun l hs => ?_⟩
  · obtain ⟨-, left, trace⟩ := exchangeByte_list (xferStart v s) given rest hg hs
    exact ⟨sampled given hg trace, by rw [← left, e]⟩
  · exact sampled _ List.length_replicate (exchangeByte_const (xferStart v s) l hs)

end

/-- Settles O19: the events, the answer and the levels are those of one byte. -/
theorem xferExchangesOneByte : Obligations.XferExchangesOneByte := by
  intro v s hr
  obtain ⟨samples, source, draws, hl, e, listed, const⟩ := runXfer_spec v s
  have runs := exec_xfer_runs v s hr
  rw [e] at runs
  refine ⟨_, samples, hl, runs, rfl, rfl, rfl, rfl, rfl, getLsbD_assembleMsbFirst samples hl, ?_, fun distinct => ?_,
    listed, const⟩
  · rw [driven, pinsAfterByte_sck]
  · rw [driven, pinsAfterByte_mosi s.cfg v s.pins distinct]

/-- Settles O20: the answer is the byte received, and over the loopback that is the byte sent. -/
theorem xferLoopbackReturnsTheByteSent : Obligations.XferLoopbackReturnsTheByteSent := by
  intro v s hr hs defined
  obtain ⟨-, ctx, -⟩ := (ready_iff s).1 hr
  have loopback : Loopback (xferStart v s) := ⟨hs, ctx, defined⟩
  exact ⟨_, exec_xfer_runs v s hr, rfl, loopback.exchangeByte_rxb⟩

/-- Settles O21: neither the refusal nor acceptance writes a pin, and the events write MOSI and SCK. -/
theorem xferFrame : Obligations.XferFrame := by
  intro v s t h
  rcases exec_needsContext_next s (.xfer v) rfl h with rfl | rfl | ⟨ctx, rfl | rfl⟩
  · exact ⟨rfl, fun _ _ _ => rfl⟩
  · exact ⟨rfl, fun _ _ _ => rfl⟩
  · rw [accept_xfer_eq v s ctx]
    exact ⟨rfl, fun _ _ _ => rfl⟩
  · obtain ⟨_, _, _, -, e, -⟩ := runXfer_spec v s
    rw [accept_xfer_eq v s ctx, eventsOf, e]
    dsimp only
    exact ⟨rfl, pinsAfterByte_other s.cfg v s.pins⟩

end Sys2Proof.Machine

/-! ## TRANS: what it leaves, the levels it ends with, and the empty frame (R140, R55, R69, R146) -/

namespace Sys2Proof.Machine

/-! ### What a TRANS leaves -/

/-- What the events of a TRANS of length `n` leave between two states: the build, the Configuration, the context, the Pin
Interface and the moves still to come; every pin but MOSI, SCK and SS; the array that the build does not store to, and every
byte at or beyond `n` (R55, R69, R140). -/
structure TransKeeps (n : Len) (s t : State) : Prop where
  registers : t = { s with
    op := t.op, txb := t.txb, rxb := t.rxb, bitpos := t.bitpos, idx := t.idx, len := t.len, tsm := t.tsm, seq := t.seq,
    respStatus := t.respStatus, respData := t.respData, respValid := t.respValid, pins := t.pins,
    misoSource := t.misoSource, tx := t.tx, rx := t.rx, draws := t.draws, trace := t.trace, mark := t.mark }
  pins : ∀ a, a ≠ s.cfg.mosi.toNat → a ≠ s.cfg.sck.toNat → a ≠ s.cfg.ss.toNat →
    Memory.read t.pins a = Memory.read s.pins a
  tx : s.build.bufAlias = false → t.tx = s.tx
  rx : s.build.bufAlias = true → t.rx = s.rx
  beyond : ∀ a, n.toNat ≤ a → Memory.read t.tx a = Memory.read s.tx a ∧ Memory.read t.rx a = Memory.read s.rx a

section
variable {n : Len} {s t u : State}

/-- A TRANS may write its working registers, the position, the response and the mark. -/
theorem TransKeeps.of_registers {op : Op} {len idx : Len} {seq : Seq} {status : Status} {data : Byte} {valid : Bool}
    {mark : Option Mark} : TransKeeps n s { s with
      op := op, len := len, idx := idx, seq := seq, respStatus := status, respData := data, respValid := valid,
      mark := mark } :=
  ⟨rfl, fun _ _ _ _ => rfl, fun _ => rfl, fun _ => rfl, fun _ _ => ⟨rfl, rfl⟩⟩

theorem TransKeeps.refl : TransKeeps n s s := .of_registers

theorem TransKeeps.cfg (h : TransKeeps n s t) : t.cfg = s.cfg := by rw [h.registers]

theorem TransKeeps.build (h : TransKeeps n s t) : t.build = s.build := by rw [h.registers]

theorem TransKeeps.trans (h : TransKeeps n s t) (h' : TransKeeps n t u) : TransKeeps n s u where
  registers := h'.registers.trans (by rw [h.registers])
  pins a mosi sck ss := by
    rw [h'.pins a (by rwa [h.cfg]) (by rwa [h.cfg]) (by rwa [h.cfg]), h.pins a mosi sck ss]
  tx two := (h'.tx (by rwa [h.build])).trans (h.tx two)
  rx one := (h'.rx (by rwa [h.build])).trans (h.rx one)
  beyond a ha := by
    obtain ⟨tx, rx⟩ := h.beyond a ha
    obtain ⟨tx', rx'⟩ := h'.beyond a ha
    exact ⟨tx'.trans tx, rx'.trans rx⟩

/-- A byte of `TX` at or beyond the length is the one before. -/
theorem TransKeeps.txByte_eq (h : TransKeeps n s t) (j : Len) (hj : n.toNat ≤ j.toNat) : txByte j t = txByte j s := by
  obtain ⟨tx, -⟩ := h.beyond j.toNat hj
  rw [txByte, tx, ← txByte]

end

section
variable (n : Len) (s : State)

/-- Acceptance of a TRANS, refused, failed or begun, writes no pin and no buffer (R150, R161, R163). -/
theorem accept_trans_keeps : TransKeeps n s (accept (.trans n) s) := by
  rw [accept, acceptTrans, withContext]
  split
  · split <;> exact .of_registers
  · exact .of_registers

/-- The frame controller writes no pin but SS, and `tsm` (R142, R144). -/
theorem writeSs_keeps (l : Level) (tsm : Tsm) : TransKeeps n s { pinWrite s.cfg.ss l s with tsm := tsm } where
  registers := rfl
  pins _ _ _ ss := Memory.read_write_other _ _ _ _ ss
  tx _ := rfl
  rx _ := rfl
  beyond _ _ := ⟨rfl, rfl⟩

/-- A byte of a frame leaves the pins as the exchange of its byte of `TX` does (R143). -/
theorem frameByte_pins : (frameByte s).pins = pinsAfterByte s.cfg (txByte s.idx s) s.pins := by
  obtain ⟨samples, source, draws, -, e⟩ := frameByte_spec s
  rw [e]

/-- A byte of a frame below the length stores its own byte in one array and writes MOSI and SCK (R69, R143). -/
theorem frameByte_keeps (hi : s.idx.toNat < n.toNat) : TransKeeps n s (frameByte s) := by
  obtain ⟨samples, source, draws, -, e⟩ := frameByte_spec s
  have tx : (frameByte s).tx = (putRx s.idx (assembleMsbFirst samples) s).tx := by rw [e]
  have rx : (frameByte s).rx = (putRx s.idx (assembleMsbFirst samples) s).rx := by rw [e]
  exact {
    registers := by rw [e]
    pins := fun a mosi sck _ => by rw [frameByte_pins, pinsAfterByte_other _ _ _ a mosi sck]
    tx := fun two => by simp [tx, two]
    rx := fun one => by simp [rx, one]
    beyond := fun a ha => by rw [tx, rx]; exact read_putRx_other s.idx _ s a (by omega) }

/-- The byte loop up to the length keeps what each of its bytes keeps (R143). -/
theorem frameBytes_keeps (k : Nat) (hk : s.idx.toNat + k ≤ n.toNat) : TransKeeps n s (frameBytes k s) := by
  induction k generalizing s with
  | zero => exact .refl
  | succ k ih =>
    obtain ⟨idx, -⟩ := frameByte_frame s
    have index : (s.idx + 1).toNat = s.idx.toNat + 1 := by bv_omega
    exact (frameByte_keeps n s (by omega)).trans (ih (frameByte s) (by rw [idx]; omega))

/-- The events of a TRANS from index 0, part by part (R140). -/
theorem runTrans_keeps (hi : s.idx = 0) : TransKeeps n s (runTrans n s) := by
  have start : (selectSlave s).idx.toNat + n.toNat ≤ n.toNat := by simp [selectSlave, hi]
  exact (writeSs_keeps n s false .selected).trans <| (frameBytes_keeps n _ _ start).trans <|
    (writeSs_keeps n _ true .idle).trans .of_registers

end

/-- Settles O25: a busy engine keeps its state, acceptance writes no pin and no buffer, and a TRANS starts only within
bounds, from index 0. -/
theorem transFrame : Obligations.TransFrame := by
  intro n s t h
  suffices TransKeeps n s t from ⟨this.registers, this.pins, this.tx, this.rx, this.beyond⟩
  rcases wholeCommand_next _ _ s t h with ⟨-, rfl⟩ | ⟨-, rfl⟩ | ⟨idle, starts, -, rfl⟩
  · exact .refl
  · exact accept_trans_keeps n s
  · have ctx := ctxValid_of_starts (.trans n) s rfl starts
    have fits := length_le_max_of_starts n s idle ctx starts
    have first : (acceptTrans n s).idx = 0 := by rw [acceptTrans_fits n s ctx fits]
    exact (accept_trans_keeps n s).trans (runTrans_keeps n _ first)

/-! ### The levels a TRANS ends with -/

section
variable (s : State)

/-- The byte loop by its last byte. -/
theorem frameBytes_succ_last (k : Nat) : frameBytes (k + 1) s = frameByte (frameBytes k s) := by
  induction k generalizing s with
  | zero => rfl
  | succ k ih => rw [frameBytes, ih, ← frameBytes]

/-- The byte loop moves the index on by one a byte (R143). -/
theorem frameBytes_idx (k : Nat) : (frameBytes k s).idx = s.idx + BitVec.ofNat 32 k := by
  induction k with
  | zero => exact (BitVec.add_zero _).symm
  | succ k ih =>
    obtain ⟨idx, -⟩ := frameByte_frame (frameBytes k s)
    rw [frameBytes_succ_last, idx, ih]
    bv_omega

/-- The byte loop leaves the pins as its last byte does, which `TX` held before the loop (R69, R143). -/
theorem frameBytes_pins (k : Nat) (hk : s.idx.toNat + k < 4294967296) :
    (frameBytes (k + 1) s).pins =
      pinsAfterByte s.cfg (txByte (s.idx + BitVec.ofNat 32 k) s) (frameBytes k s).pins := by
  have last : (s.idx + BitVec.ofNat 32 k).toNat = s.idx.toNat + k := by bv_omega
  have before := frameBytes_keeps (s.idx + BitVec.ofNat 32 k) s k last.ge
  rw [frameBytes_succ_last, frameByte_pins, frameBytes_cfg, frameBytes_idx, before.txByte_eq _ le_rfl]

/-- A TRANS ends with SS high (R144). -/
theorem runTrans_ss (n : Len) : driven s.cfg.ss (runTrans n s) = some true := by
  rw [driven, runTrans, respond_pins, deselectSlave, pinWrite_pins, frameBytes_cfg]
  exact Memory.read_write_same _ _ _

/-- With distinct pins a TRANS of at least one byte ends with SCK low and MOSI at bit 0 of its last byte: SS is written
after that byte, and is another pin (R58, R144, R147). -/
theorem runTrans_sck_mosi (n : Len) (hi : s.idx = 0) (hd : cfgDistinct s = true) (some_byte : 0 < n.toNat) :
    driven s.cfg.sck (runTrans n s) = some false ∧
      driven s.cfg.mosi (runTrans n s) = some ((txByte (n - 1) s).getLsbD 0) := by
  obtain ⟨sck_mosi, ss_mosi, ss_sck⟩ := cfgDistinct_ne hd
  have start : (selectSlave s).idx = 0 := hi
  have count : n.toNat = n.toNat - 1 + 1 := by omega
  have last : (0 : Len) + BitVec.ofNat 32 (n.toNat - 1) = n - 1 := by bv_omega
  have bytes := frameBytes_pins (selectSlave s) (n.toNat - 1) (by rw [start]; bv_omega)
  rw [← count, start, last] at bytes
  have written (p : Pin) (ne : p ≠ s.cfg.ss) : driven p (runTrans n s) =
      Memory.read (frameBytes n.toNat (selectSlave s)).pins p.toNat := by
    rw [driven, runTrans, respond_pins, deselectSlave, pinWrite_pins, frameBytes_cfg]
    exact Memory.read_write_other _ _ _ _ (pin_toNat_ne ne)
  rw [written _ ss_sck.symm, written _ ss_mosi.symm, bytes]
  exact ⟨pinsAfterByte_sck _ _ _, pinsAfterByte_mosi _ _ _ sck_mosi.symm⟩

end

/-- Where the events of a TRANS start: at the select, with index 0 (R140, R150). -/
def transStart (n : Len) (s : State) : State :=
  { s with respValid := false, op := .trans, len := n, idx := 0, seq := .trSelect, mark := transMark n s }

/-- Settles O24: the trace and the bytes of `RX` are those of the loop's samples, the levels those of its last byte and of
the deselect. -/
theorem transExchangesOneFrame : Obligations.TransExchangesOneFrame := by
  intro n s hr hn
  obtain ⟨samples, hl, heach, trace, rx, source⟩ := runTrans_samples n (transStart n s) rfl
  exact ⟨_, samples, hl, heach, exec_trans_runs n s hr hn, trace, rfl, rfl, rfl, rfl, rfl, rx,
    runTrans_ss (transStart n s) n, runTrans_sck_mosi (transStart n s) n rfl, source⟩

/-! ### The empty frame -/

/-- The events of an empty TRANS: SS low, SS high, and the response (R146). -/
theorem runTrans_zero (s : State) : runTrans 0 s = respond .ok 0x00 (deselectSlave (selectSlave s)) := rfl

/-- Settles O27: the bounds admit length 0 in every build, and between the two writes of SS nothing happens. -/
theorem emptyTransIsAnEmptyFrame : Obligations.EmptyTransIsAnEmptyFrame := by
  intro s hr
  have runs := exec_trans_runs 0 s hr (Nat.zero_le _)
  rw [runTrans_zero] at runs
  refine ⟨_, runs, ?_, rfl, rfl, rfl, rfl, rfl, Memory.read_write_same _ _ _, fun a ss => ?_⟩
  · simp [deselectSlave, selectSlave]
  · simp [deselectSlave, selectSlave, Memory.read_write, ss]

end Sys2Proof.Machine

/-! ## The acceptance step, and the commands that wait (R141, R148, R150, R157 item 3, R163) -/

namespace Sys2Proof.Machine

section
variable (s : State)

/-- A step of an idle engine to which a word is presented is the word's acceptance step (R150). -/
theorem step_present (w : CmdWord) (rest : List Input) (hs : s.seq = .idle) (he : s.env = .present w :: rest) :
    step s = .next (presentWord w { s with env := rest }) :=
  step_takes s _ rest he (.inr hs)

/-- The acceptance step of a word that decodes is the acceptance of its command (R150). -/
theorem presentWord_command {w : CmdWord} {i : Instr} (hw : decode w = .command i) : presentWord w s = accept i s := by
  rw [presentWord, hw]

/-- A refusal at acceptance writes the response and the mark, and leaves the rest of an idle engine (R163; log 5). -/
theorem refuse_clearResp_idle (m : Mark) (hs : s.seq = .idle) :
    refuse m (clearResp s) =
      { s with respStatus := .refused, respData := 0, respValid := true, mark := markWith m s } := by
  simp only [refuse, respond, clearResp, ← hs, markWith]

end

/-- Settles O8: the step is the acceptance of the decoded word, which refuses a reserved word or a missing context, or
is the command's own acceptance. -/
theorem acceptanceFollowsItsTable : Obligations.AcceptanceFollowsItsTable := by
  intro s w rest hs he
  have present := step_present s w rest hs he
  have command {i : Instr} (hw : decode w = .command i) : step s = .next (accept i { s with env := rest }) :=
    present.trans (congrArg _ (presentWord_command _ hw))
  have refused (m : Mark) := refuse_clearResp_idle { s with env := rest } m hs
  refine ⟨fun why hw => ?_, fun m i k c hw => ⟨_, command hw, rfl⟩, fun i hw needs noCtx => ?_,
    fun b hw ctx => ?_, fun hw ctx => ?_, fun v hw ctx => ?_, fun n hw ctx long => ?_, fun n hw ctx fits => ?_⟩
  · rw [presentWord, hw, acceptReserved, refused] at present
    exact ⟨_, present, rfl⟩
  · have answer := command hw
    rw [accept_none i _ (by exact noCtx) needs, refused] at answer
    exact ⟨_, answer, rfl⟩
  · exact (command hw).trans (congrArg _ (acceptTxbit_ctx b _ (by exact ctx)))
  · exact (command hw).trans (congrArg _ (acceptRxbit_ctx _ (by exact ctx)))
  · exact (command hw).trans (congrArg _ (acceptXfer_ctx v _ (by exact ctx)))
  · exact (command hw).trans (congrArg _ (acceptTrans_exceeds n _ (by exact hs) (by exact ctx) long))
  · exact ⟨_, (command hw).trans (congrArg _ (acceptTrans_fits n _ (by exact ctx) fits)), rfl⟩

/-- Settles O9: the move is held back, no step of the sequencer takes one, and a busy engine accepts no command. -/
theorem busyEngineKeepsCommandsWaiting : Obligations.BusyEngineKeepsCommandsWaiting := by
  intro s w rest busy move
  refine ⟨?_, fun t ht => (tick_outside s t ht).1, fun i => ?_⟩
  · rcases move with he | he <;> exact step_waits s _ rest he rfl busy
  · rw [exec_wholeCommand, wholeCommand_busy _ _ s busy]

/-- Settles O10: the step is the sequencer's, which stands still in `IDLE`. -/
theorem idleEngineWithoutCommandStaysAsItIs : Obligations.IdleEngineWithoutCommandStaysAsItIs :=
  fun s hs he => (step_nil s he).trans (tick_idle s hs)

end Sys2Proof.Machine

/-! ## The step tables: what a step does where the Pin Interface answers, and where it does not (R151 to R157) -/

namespace Sys2Proof.Machine

/-! ### The kinds of a step, where the Pin Interface answers -/

section
variable {s : State}

/-- A step that writes a pin and moves on (R51, R89). -/
theorem tick_of_write {p : Pin} {l : Level} {q : Seq} (h : tick s = writeThen p l q s) (acks : s.pinAck = true) :
    tick s = .next { s with
      pins := Memory.write s.pins p.toNat l, trace := s.trace ++ [.pinWrite p l], seq := q } :=
  h.trans (pinStep_done _ s acks)

/-- A step that writes a pin and ends the command with its answer (R51, R83). -/
theorem tick_of_lastWrite {p : Pin} {l : Level} {data : Byte}
    (h : tick s = pinStep (respond .ok data (pinWrite p l s)) s) (acks : s.pinAck = true) :
    tick s = .next { s with
      pins := Memory.write s.pins p.toNat l, trace := s.trace ++ [.pinWrite p l],
      respStatus := .ok, respData := data, respValid := true, seq := .idle } :=
  h.trans (pinStep_done _ s acks)

/-- A step that samples MISO into a bit of the receive byte (R54, R131). -/
theorem tick_of_sample {i : BitVec 3} {q : Seq} (h : tick s = sampleStep i q s) (acks : s.pinAck = true) :
    tick s = .next { s with
      misoSource := (sampleMiso s).source, draws := (sampleMiso s).draws,
      trace := s.trace ++ [.pinRead s.cfg.miso (sampleMiso s).level], rxb := setBit s.rxb i (sampleMiso s).level,
      seq := q } :=
  h.trans (pinStep_done _ s acks)

/-- `XB_FALL` writes SCK low, and what it goes on to is decided after that (R154). -/
theorem tick_of_fall (hs : s.seq = .xbFall) (acks : s.pinAck = true) :
    tick s = afterFall (pinWrite s.cfg.sck false s) :=
  (tick_xbFall s hs).trans (if_pos acks)

end

/-- Settles O34: two writes, and a last one. -/
theorem initStepsFollowTheirTable : Obligations.InitStepsFollowTheirTable := fun s acks =>
  ⟨fun hs => tick_of_write (tick_initMosi s hs) acks,
   fun hs => tick_of_write (tick_initSck s hs) acks,
   fun hs => tick_of_lastWrite (tick_initSs s hs) acks⟩

/-- Settles O35: two writes and a last one; a write, a sample and a last write. -/
theorem bitStepsFollowTheirTable : Obligations.BitStepsFollowTheirTable := fun s acks =>
  ⟨fun hs => tick_of_write (tick_tbSetup s hs) acks,
   fun hs => tick_of_write (tick_tbRise s hs) acks,
   fun hs => tick_of_lastWrite (tick_tbFall s hs) acks,
   fun hs => tick_of_write (tick_rbRise s hs) acks,
   fun hs => tick_of_sample (tick_rbSample s hs) acks,
   fun hs => tick_of_lastWrite (tick_rbFall s hs) acks⟩

/-- Settles O36: two writes, a sample, and the falling edge with its three ends. -/
theorem bitCycleStepsFollowTheirTable : Obligations.BitCycleStepsFollowTheirTable := fun s acks =>
  ⟨fun hs => tick_of_write (tick_xbSetup s hs) acks,
   fun hs => tick_of_write (tick_xbRise s hs) acks,
   fun hs => tick_of_sample (tick_xbSample s hs) acks,
   fun hs more => (tick_of_fall hs acks).trans (afterFall_again _ more),
   fun hs last xfer => (tick_of_fall hs acks).trans (afterFall_xfer _ last xfer),
   fun hs last trans => (tick_of_fall hs acks).trans (afterFall_trans _ last trans)⟩

/-! ### The steps of a transaction -/

/-- What the store half of a byte does: one of the two arrays, its event, and the next index (R69, R155). -/
theorem storeByte_eq (s : State) :
    storeByte s =
      { s with
        tx := (putRx s.idx s.rxb s).tx, rx := (putRx s.idx s.rxb s).rx, trace := s.trace ++ [.rxWrite s.idx s.rxb],
        idx := s.idx + 1 } := by
  rw [storeByte, memWriteRx, putRx_eq]
  rfl

/-- The byte of `RX` that a store wrote, with one array or with two (R69, R155). -/
theorem rxByte_storeByte (s : State) : rxByte s.idx (storeByte s) = s.rxb :=
  (rxByte_putRx s.idx s.idx s.rxb s).trans (if_pos rfl)

/-- Settles O37: the select and the deselect are pin steps, and a load and a store inside the buffers happen. -/
theorem transactionStepsFollowTheirTable : Obligations.TransactionStepsFollowTheirTable := by
  intro s acks
  refine ⟨fun hs => (tick_trSelect s hs).trans (pinStep_done _ s acks), fun hs inside => tick_load s hs inside,
    fun hs inside => ?_, fun hs => (tick_trDeselect s hs).trans (pinStep_done _ s acks)⟩
  refine ⟨_, tick_store s hs inside, ?_, rxByte_storeByte s, fun two => ?_, fun one => ?_,
    read_putRx_other s.idx s.rxb s⟩
  · rw [storeByte_eq]
  · simp [storeByte, two]
  · simp [storeByte, one]

/-! ### A Pin Interface that does not answer (R157 item 2) -/

section
variable (s : State)

/-- A pin step waits while the Pin Interface does not answer (R89). -/
theorem pinStep_waits (done : State) (silent : s.pinAck = false) : pinStep done s = .next s :=
  if_neg (ne_true_of_eq_false silent)

/-- A position with a pin request waits for the Pin Interface (R89, R157 item 2). -/
theorem tick_waits (silent : s.pinAck = false) (requests : pinRequest s ≠ none) : tick s = .next s := by
  cases hs : s.seq
  case idle | trLoad | trStore => simp [pinRequest, hs] at requests
  case xbFall => exact (tick_xbFall s hs).trans (if_neg (ne_true_of_eq_false silent))
  all_goals simp only [tick, hs, writeThen, sampleStep, pinStep_waits s _ silent]

/-- A whole command goes no further than its acceptance while the Pin Interface does not answer (log 9). -/
theorem wholeCommand_waits (acc run : State → State) (hs : s.seq = .idle) (silent : s.pinAck = false) :
    wholeCommand acc run s = .next (acc s) := by
  by_cases answered : (acc s).seq = .idle
  · exact wholeCommand_answered acc run s hs answered
  · simp [wholeCommand, hs, answered, silent]

end

/-- Settles O38: a position with a request waits, and a whole command waits at its first. -/
theorem unansweredPinRequestHoldsTheEngine : Obligations.UnansweredPinRequestHoldsTheEngine := by
  intro s silent
  refine ⟨tick_waits s silent, fun i hs => ?_⟩
  rw [exec_wholeCommand, wholeCommand_waits s _ _ hs silent]

end Sys2Proof.Machine

/-! ## What every step of the sequencer does, and what it never does (R157 items 2 and 4 to 6) -/

namespace Sys2Proof.Machine

/-! ### One event a step (R157 items 2 and 4) -/

section
variable {s t : State}

/-- A pin step that is answered adds the event of its end (R89). -/
theorem pinStep_adds_event {done : State} {e : Event} (ht : pinStep done s = .next t) (acks : s.pinAck = true)
    (hd : done.trace = s.trace ++ [e]) : ∃ e, t.trace = s.trace ++ [e] := by
  cases (pinStep_done done s acks).symm.trans ht
  exact ⟨e, hd⟩

/-- `XB_FALL` adds the one event of the falling edge, whatever it goes on to (R154). -/
theorem fallStep_adds_event (ht : fallStep s = .next t) (acks : s.pinAck = true) : ∃ e, t.trace = s.trace ++ [e] := by
  have fell : afterFall (pinWrite s.cfg.sck false s) = .next t := (if_pos acks).symm.trans ht
  rcases afterFall_next _ t fell with ⟨-, rfl⟩ | ⟨-, -, rfl⟩ | ⟨-, -, rfl⟩ <;> exact ⟨_, rfl⟩

/-- A step of a busy engine whose Pin Interface answers adds exactly one event (R151 to R156). -/
theorem tick_adds_event (ht : tick s = .next t) (busy : s.seq ≠ .idle) (acks : s.pinAck = true) :
    ∃ e, t.trace = s.trace ++ [e] := by
  cases hs : s.seq <;> simp only [tick, hs] at ht
  case idle => exact absurd hs busy
  case xbFall => exact fallStep_adds_event ht acks
  case trLoad =>
    obtain ⟨-, rfl⟩ := loadStep_next s t ht
    exact ⟨_, rfl⟩
  case trStore =>
    obtain ⟨-, rfl⟩ := storeStep_next s t ht
    exact ⟨_, storeByte_trace s⟩
  all_goals exact pinStep_adds_event ht acks rfl

end

/-- Settles O39: the invariant gives the step its next state, and the step adds one event. -/
theorem busyEngineMakesOneEventAStep : Obligations.BusyEngineMakesOneEventAStep := by
  intro s inv busy acks
  obtain ⟨t, ht⟩ := inv.position.tick_next
  obtain ⟨e, he⟩ := tick_adds_event ht busy acks
  exact ⟨t, e, ht, he⟩

/-! ### Who writes the context, the frame and SS (R157 item 5) -/

/-- Acceptance of any command but INIT leaves the Configuration and the frame (R21, R29, R150). -/
theorem accept_cfg_tsm (i : Instr) (s : State) (hi : i.needsContext = true) :
    (accept i s).cfg = s.cfg ∧ (accept i s).tsm = s.tsm := by
  cases hc : s.ctxValid with
  | false => rw [accept_none i s hc hi]; exact ⟨rfl, rfl⟩
  | true =>
    cases i with
    | init => cases hi
    | txbit bit => rw [accept, acceptTxbit_ctx bit s hc]; exact ⟨rfl, rfl⟩
    | rxbit => rw [accept, acceptRxbit_ctx s hc]; exact ⟨rfl, rfl⟩
    | xfer txByte => rw [accept, acceptXfer_ctx txByte s hc]; exact ⟨rfl, rfl⟩
    | trans length =>
      rw [accept, acceptTrans, withContext_ctx _ s hc]
      split <;> exact ⟨rfl, rfl⟩

section
variable {s t : State}

/-- Only the select and the deselect write the frame state (R29, R156). -/
theorem tick_tsm (ht : tick s = .next t) : t.tsm = s.tsm ∨ s.seq = .trSelect ∨ s.seq = .trDeselect := by
  have kept {done : State} (step : pinStep done s = .next t) (hd : done.tsm = s.tsm) : t.tsm = s.tsm :=
    pinStep_keeps (P := fun u => u.tsm = s.tsm) step rfl hd
  cases hs : s.seq <;> simp only [tick, hs] at ht
  case trSelect => exact .inr (.inl rfl)
  case trDeselect => exact .inr (.inr rfl)
  case idle => cases ht; exact .inl rfl
  case xbFall =>
    rcases fallStep_next s t ht with rfl | rfl | ⟨-, rfl⟩ | ⟨-, rfl⟩ <;> exact .inl rfl
  case trLoad =>
    obtain ⟨-, rfl⟩ := loadStep_next s t ht
    exact .inl rfl
  case trStore =>
    obtain ⟨-, rfl⟩ := storeStep_next s t ht
    exact .inl (storeByte_tsm s)
  all_goals exact .inl (kept ht rfl)

/-- With distinct pins only three positions request a write of SS (R145). -/
theorem seq_of_ssRequest {l : Level} (hd : cfgDistinct s = true)
    (h : pinRequest s = some (writeRequest s.cfg.ss l)) :
    s.seq = .initSs ∨ s.seq = .trSelect ∨ s.seq = .trDeselect := by
  obtain ⟨-, mosi_ne, sck_ne⟩ := cfgDistinct_ne hd
  cases hs : s.seq <;> simp only [pinRequest, hs] at h
  case initSs => exact .inl rfl
  case trSelect => exact .inr (.inl rfl)
  case trDeselect => exact .inr (.inr rfl)
  all_goals simp [mosi_ne.symm, sck_ne.symm] at h

end

/-- Settles O40: a step that writes SS has its position request that write (R90). -/
theorem onlyNamedStepsWriteContextFrameAndSs : Obligations.OnlyNamedStepsWriteContextFrameAndSs := by
  refine ⟨fun i s hi => ?_, fun s t ht => ?_⟩
  · obtain ⟨cfg, tsm⟩ := accept_cfg_tsm i s hi
    exact ⟨cfg, accept_ctxValid i s hi, tsm⟩
  · obtain ⟨-, -, cfg, ctx, -⟩ := tick_outside s t ht
    refine ⟨cfg, ctx, (tick_tsm ht).resolve_left, fun hd l he => ?_⟩
    obtain ⟨request, -⟩ := tick_portsShow ht he
    exact seq_of_ssRequest hd request.symm

/-! ### The pin bank is not read (R157 item 6) -/

/-- The state with another pin bank. -/
def setPins (p : List (Nat × Level)) (s : State) : State := { s with pins := p }

/-- Two answers that differ in the pin bank of the next state at most. -/
inductive AgreeButPins : Host.Outcome State Fault Refusal → Host.Outcome State Fault Refusal → Prop where
  | next (q : List (Nat × Level)) (t : State) : AgreeButPins (.next t) (.next (setPins q t))
  | fault (r : Fault) : AgreeButPins (.fault r) (.fault r)

theorem AgreeButPins.of_next {o : Host.Outcome State Fault Refusal} {t : State} (h : AgreeButPins (.next t) o) :
    ∃ q, o = .next (setPins q t) := by
  cases h with
  | next q => exact ⟨q, rfl⟩

theorem AgreeButPins.of_fault {o : Host.Outcome State Fault Refusal} {r : Fault} (h : AgreeButPins (.fault r) o) :
    o = .fault r := by
  cases h with
  | fault => rfl

section
variable (p : List (Nat × Level)) (s : State)

/-- A pin step agrees where its end does (R89). -/
theorem pinStep_agreeButPins (q : List (Nat × Level)) (done : State) :
    AgreeButPins (pinStep done s) (pinStep (setPins q done) (setPins p s)) := by
  cases acks : s.pinAck with
  | true => rw [pinStep_done _ s acks, pinStep_done _ (setPins p s) acks]; exact .next q done
  | false => rw [pinStep_waits s _ acks, pinStep_waits (setPins p s) _ acks]; exact .next p s

/-- At the last position the falling edge of any other command has no transition (R154; log 17). -/
theorem afterFall_fault (last : s.bitpos = 0) (xfer : s.op ≠ .xfer) (trans : s.op ≠ .trans) :
    afterFall s = .fault .noTransition := by
  unfold afterFall
  rw [if_neg (by simp [last])]
  cases op : s.op with
  | xfer => exact absurd op xfer
  | trans => exact absurd op trans
  | _ => rfl

/-- What follows the falling edge is decided by `bitpos` and `op` (R154). -/
theorem afterFall_agreeButPins : AgreeButPins (afterFall s) (afterFall (setPins p s)) := by
  by_cases last : s.bitpos = 0
  · by_cases xfer : s.op = .xfer
    · rw [afterFall_xfer s last xfer, afterFall_xfer (setPins p s) last xfer]
      exact .next p _
    by_cases trans : s.op = .trans
    · rw [afterFall_trans s last trans, afterFall_trans (setPins p s) last trans]
      exact .next p _
    · rw [afterFall_fault s last xfer trans, afterFall_fault (setPins p s) last xfer trans]
      exact .fault _
  · rw [afterFall_again s last, afterFall_again (setPins p s) last]
    exact .next p _

/-- `XB_FALL` writes SCK without reading it (R154). -/
theorem fallStep_agreeButPins : AgreeButPins (fallStep s) (fallStep (setPins p s)) := by
  unfold fallStep
  by_cases acks : s.pinAck = true
  · rw [if_pos acks, if_pos (by exact acks)]
    exact afterFall_agreeButPins _ (pinWrite s.cfg.sck false s)
  · rw [if_neg acks, if_neg (by exact acks)]
    exact .next p s

/-- A sample depends on the pin bank over the wire from MOSI only (R34). -/
theorem sampleMiso_setPins (unwired : s.misoSource ≠ .loopback) : sampleMiso (setPins p s) = sampleMiso s := by
  unfold sampleMiso setPins
  cases hm : s.misoSource with
  | loopback => exact absurd hm unwired
  | list levels => cases levels <;> rfl
  | _ => rfl

/-- A sample step agrees where MISO is not wired to MOSI (R34, R54). -/
theorem sampleStep_agreeButPins (i : BitVec 3) (q : Seq) (unwired : s.misoSource ≠ .loopback) :
    AgreeButPins (sampleStep i q s) (sampleStep i q (setPins p s)) := by
  simp only [sampleStep, readMiso, sampleMiso_setPins p s unwired]
  exact pinStep_agreeButPins p s p _

/-- A buffer access agrees where what it does inside the buffer agrees (R50, R56). -/
theorem access_agreeButPins (inside : Bool) (done : State) (r : Fault) :
    AgreeButPins (if inside then .next done else .fault r) (if inside then .next (setPins p done) else .fault r) := by
  cases inside with
  | true => exact .next p done
  | false => exact .fault r

/-- A load does not involve the pin bank (R155). -/
theorem loadStep_agreeButPins : AgreeButPins (loadStep s) (loadStep (setPins p s)) :=
  access_agreeButPins p (inBuffer s.idx s) _ _

theorem storeByte_setPins : storeByte (setPins p s) = setPins p (storeByte s) := by
  cases hb : s.build.bufAlias <;> simp [setPins, storeByte, memWriteRx, emit, putRx, putTx, hb]

/-- A store does not involve the pin bank (R155). -/
theorem storeStep_agreeButPins : AgreeButPins (storeStep s) (storeStep (setPins p s)) := by
  rw [storeStep, storeStep, storeByte_setPins]
  exact access_agreeButPins p (inBuffer s.idx s) _ _

/-- A step of the sequencer agrees on every pin bank where MISO is not wired to MOSI (R151 to R156). -/
theorem tick_agreeButPins (unwired : s.misoSource ≠ .loopback) : AgreeButPins (tick s) (tick (setPins p s)) := by
  have seq : (setPins p s).seq = s.seq := rfl
  cases hs : s.seq <;> simp only [tick, seq, hs]
  case idle => exact .next p s
  case rbSample | xbSample => exact sampleStep_agreeButPins p s _ _ unwired
  case xbFall => exact fallStep_agreeButPins p s
  case trLoad => exact loadStep_agreeButPins p s
  case trStore => exact storeStep_agreeButPins p s
  all_goals exact pinStep_agreeButPins p s _ _

end

/-- Settles O41: the answers of the two steps agree, so a next state differs in its pin bank only and a fault is the
same. -/
theorem outputLevelsDoNotFeedBack : Obligations.OutputLevelsDoNotFeedBack := by
  intro s p unwired
  have agree := tick_agreeButPins p s unwired
  exact ⟨fun t ht => (ht ▸ agree).of_next, fun r ht => (ht ▸ agree).of_fault⟩

end Sys2Proof.Machine

/-! ## Refusals, failures and the mark of the run (R141, R160 to R165, R175, R199) -/

namespace Sys2Proof.Machine

/-! ### Commands answered at acceptance, executed, called or presented (R150, R165) -/

section
variable {s : State}

/-- A command that its acceptance answers ends there (R150). -/
theorem exec_answered (i : Instr) (hs : s.seq = .idle) (answered : (accept i s).seq = .idle) :
    exec i s = .next (accept i s) := by
  rw [exec_wholeCommand, wholeCommand_answered _ _ s hs answered]

/-- Without a context a command that needs one is refused (R163). -/
theorem exec_refused (i : Instr) (hs : s.seq = .idle) (noCtx : s.ctxValid = false) (needs : i.needsContext = true) :
    exec i s = .next { s with
      respStatus := .refused, respData := 0, respValid := true, mark := markWith .noContext s } := by
  rw [← refuse_clearResp_idle s .noContext hs, ← accept_none i s noCtx needs]
  exact exec_answered i hs (by rw [accept_none i s noCtx needs]; rfl)

/-- A TRANS longer than the buffers fails (R160, R161). -/
theorem exec_trans_fails (n : Len) (hs : s.seq = .idle) (ctx : s.ctxValid = true) (long : s.build.max < n.toNat) :
    exec (.trans n) s = .next { s with respStatus := .failLength, respData := 0, respValid := true } := by
  have failed : accept (.trans n) s = { s with respStatus := .failLength, respData := 0, respValid := true } :=
    acceptTrans_exceeds n s hs ctx long
  rw [← failed]
  exact exec_answered (.trans n) hs (by rw [failed]; exact hs)

/-- A word whose acceptance answers it ends there, called as presented (R11, R150). -/
theorem callWord_answered (w : CmdWord) (hs : s.seq = .idle) (answered : (presentWord w s).seq = .idle) :
    callWord w s = .next (presentWord w s) := by
  unfold presentWord at answered ⊢
  unfold callWord
  cases hw : decode w with
  | command i => simp only [hw] at answered ⊢; exact exec_answered i hs answered
  | invalid why => rfl

variable {w : CmdWord} {rest : List Input} (hs : s.seq = .idle)
  (move : s.env = .call w :: rest ∨ s.env = .present w :: rest)
include hs move

/-- The step that takes a word which its acceptance answers is that acceptance, whether the word is called or
presented (R150). -/
theorem step_word_answered {u : State} (accepted : presentWord w { s with env := rest } = u) (answered : u.seq = .idle) :
    step s = .next u := by
  subst accepted
  rcases move with he | he
  · exact (step_takes s _ rest he (.inr hs)).trans (callWord_answered w hs answered)
  · exact step_present s w rest hs he

/-- The step that takes a reserved word refuses it and marks the run (R163; log 5). -/
theorem step_reserved {why : Reserved} (hw : decode w = .invalid why) :
    step s = .next { s with
      env := rest, respStatus := .refused, respData := 0, respValid := true, mark := markWith .reservedEncoding s } := by
  refine step_word_answered hs move ?_ hs
  rw [presentWord, hw]
  exact refuse_clearResp_idle { s with env := rest } .reservedEncoding hs

/-- The step that takes a command without its context refuses it and marks the run (R163; log 5). -/
theorem step_noContext {i : Instr} (hw : decode w = .command i) (needs : i.needsContext = true)
    (noCtx : s.ctxValid = false) :
    step s = .next { s with
      env := rest, respStatus := .refused, respData := 0, respValid := true, mark := markWith .noContext s } := by
  refine step_word_answered hs move ?_ hs
  rw [presentWord_command _ hw, accept_none i _ (by exact noCtx) needs]
  exact refuse_clearResp_idle { s with env := rest } .noContext hs

/-- The step that takes an over-long TRANS fails it (R160, R161). -/
theorem step_trans_fails {n : Len} (hw : decode w = .command (.trans n)) (ctx : s.ctxValid = true)
    (long : s.build.max < n.toNat) :
    step s = .next { s with env := rest, respStatus := .failLength, respData := 0, respValid := true } :=
  step_word_answered hs move
    ((presentWord_command _ hw).trans (acceptTrans_exceeds n { s with env := rest } hs ctx long)) hs

end

/-- Settles O23: the failure writes the response registers alone, and writing them again changes nothing. -/
theorem overlongTransFailsWithoutEffect : Obligations.OverlongTransFailsWithoutEffect := fun n _ hs ctx long =>
  ⟨_, exec_trans_fails n hs ctx long, rfl, exec_trans_fails n hs ctx long⟩

/-- Settles O29: the refusal writes the response registers and the mark. -/
theorem commandsWithoutContextAreRefused : Obligations.CommandsWithoutContextAreRefused := fun i _ hs noCtx needs =>
  ⟨_, exec_refused i hs noCtx needs, rfl⟩

/-- Settles O30: a reserved word is refused whatever the context, a missing context whatever the length, and only then is
the length looked at. -/
theorem acceptanceChecksComeInOrder : Obligations.AcceptanceChecksComeInOrder := fun _ _ _ hs move =>
  ⟨fun _ hw => ⟨_, step_reserved hs move hw, rfl⟩,
    fun _ hw needs noCtx => ⟨_, step_noContext hs move hw needs noCtx, rfl⟩,
    fun _ hw ctx long => step_trans_fails hs move hw ctx long⟩

/-- Settles O31: each refusal leaves the mark of its own kind unless an earlier one stands. -/
theorem refusedInputsMarkTheRun : Obligations.RefusedInputsMarkTheRun := fun _ _ _ hs move =>
  ⟨fun _ hw => ⟨_, step_reserved hs move hw, rfl⟩,
    fun _ hw needs noCtx => ⟨_, step_noContext hs move hw needs noCtx, rfl⟩⟩

/-! ### The mark of the run (R175) -/

/-- The marks a run may have after an operation: its mark before, or that of a breach, where an earlier one stays. -/
def MarkKeptOrSet (s : State) (mark : Option Mark) : Prop := mark = s.mark ∨ ∃ m, mark = markWith m s

section
variable {s : State}

/-- Steps of the sequencer set no mark. -/
theorem ticks_mark (k : Nat) (s t : State) (h : ticks k s = .next t) : t.mark = s.mark := by
  refine ticks_keeps (P := fun u => u.mark = s.mark) (fun u v kept e => ?_) k s t rfl h
  obtain ⟨-, -, -, -, mark, -⟩ := tick_outside u v e
  exact mark.trans kept

/-- The events of a command set no mark, so the whole command leaves the one of its acceptance (R11). -/
theorem exec_mark (i : Instr) {t : State} (hs : s.seq = .idle) (h : exec i s = .next t) :
    t.mark = (accept i s).mark := by
  obtain ⟨k, hk⟩ := exec_ticks i s t hs h
  exact ticks_mark k _ t hk

/-- An INIT keeps the mark or marks the run (R102; log 6). -/
theorem initMark_kept_or_set (mosi miso sck ss : Pin) : MarkKeptOrSet s (initMark mosi miso sck ss s) := by
  unfold initMark
  split
  · split
    · exact .inl rfl
    · exact .inr ⟨.pinNotValid, rfl⟩
  · exact .inr ⟨.pinsCollide, rfl⟩

/-- A TRANS within bounds keeps the mark or marks the run (R199; log 5). -/
theorem transMark_kept_or_set (n : Len) : MarkKeptOrSet s (transMark n s) := by
  unfold transMark
  split
  · exact .inl rfl
  · exact .inr ⟨.txNotWritten, rfl⟩

/-- The context check keeps the mark or marks the run where the command that starts does (R163). -/
theorem withContext_mark {start : State → State} (started : MarkKeptOrSet s (start (clearResp s)).mark) :
    MarkKeptOrSet s (withContext start s).mark := by
  cases ctx : s.ctxValid with
  | true => rw [withContext_ctx start s ctx]; exact started
  | false => rw [withContext_none start s ctx]; exact .inr ⟨.noContext, rfl⟩

/-- An acceptance keeps the mark or marks the run (R175). -/
theorem accept_mark (i : Instr) : MarkKeptOrSet s (accept i s).mark := by
  cases i with
  | init mosi miso sck ss => exact initMark_kept_or_set mosi miso sck ss
  | txbit | rxbit | xfer => exact withContext_mark (.inl rfl)
  | trans n =>
    refine withContext_mark ?_
    split
    · exact .inl rfl
    · exact transMark_kept_or_set n

/-- The acceptance step of a word keeps the mark or marks the run (R175). -/
theorem presentWord_mark (w : CmdWord) : MarkKeptOrSet s (presentWord w s).mark := by
  unfold presentWord
  split
  · exact accept_mark _
  · exact .inr ⟨.reservedEncoding, rfl⟩

/-- A move of the outside world keeps the mark, unless it is a word taken by an idle engine, which may mark the run. -/
theorem Entry.mark {m : Input} {u : State} (h : Entry s m u) :
    u.mark = s.mark ∨
      (s.seq = .idle ∧ (∃ w, m = .call w ∨ m = .present w) ∧ ∃ k, u.mark = markWith k s) := by
  cases h with
  | word w hm hs => exact (presentWord_mark w).imp_right fun set => ⟨hs, ⟨w, hm⟩, set⟩
  | writeRx i v => exact .inl (putRx_mark i v s)
  | _ => exact .inl rfl

/-- Marking a run that is marked keeps its mark (R175; log 5). -/
theorem markWith_of_some {m : Mark} (k : Mark) (h : s.mark = some m) : markWith k s = some m := by rw [markWith, h]; rfl

/-- Everything a step can do to the mark: keep it, or mark the run where an idle engine takes a word. -/
theorem step_mark {t : State} (h : step s = .next t) :
    t.mark = s.mark ∨
      (s.seq = .idle ∧ (∃ w rest, s.env = .call w :: rest ∨ s.env = .present w :: rest) ∧
        ∃ k, t.mark = markWith k s) := by
  rcases step_entry s t h with e | ⟨m, rest, u, k, he, entry, e⟩
  · obtain ⟨-, -, -, -, mark, -⟩ := tick_outside s t e
    exact .inl mark
  · have mark := ticks_mark k u t e
    rcases entry.mark with kept | ⟨hs, ⟨w, hm⟩, kind, set⟩
    · exact .inl (mark.trans kept)
    · exact .inr ⟨hs, ⟨w, rest, by rcases hm with rfl | rfl <;> simp [he]⟩, kind, mark.trans set⟩

end

/-- Settles O26: the run's mark is the one of acceptance, which looks for an unwritten byte below the length. -/
theorem transMarksARunOnUnwrittenBytes : Obligations.TransMarksARunOnUnwrittenBytes := by
  intro n s hr hn
  obtain ⟨idle, ctx, -⟩ := (ready_iff s).1 hr
  have runs := exec_trans_runs n s hr hn
  have mark := exec_mark (.trans n) idle runs
  rw [accept, acceptTrans_fits n s ctx hn] at mark
  exact ⟨_, runs, fun written => mark.trans (transMark_written n s written),
    fun a ha unwritten => mark.trans (transMark_unwritten n s a ha unwritten)⟩

/-- Settles O33: a step keeps the mark, or marks the run where an idle engine takes a word; and the first mark stays. -/
theorem marksStayAndComeOnlyFromAcceptance : Obligations.MarksStayAndComeOnlyFromAcceptance := by
  intro s t h
  rcases step_mark h with kept | ⟨hs, word, k, set⟩
  · exact ⟨fun m marked => kept.trans marked, fun unmarked now => absurd (kept.trans unmarked) now⟩
  · exact ⟨fun m marked => set.trans (markWith_of_some k marked), fun _ _ => ⟨hs, word⟩⟩

end Sys2Proof.Machine

/-! ## Reset at a step boundary (R190, R191) -/

namespace Sys2Proof.Machine

/-- Reset, where it is the next move, happens whatever position the engine is in (R191, R192). -/
theorem step_reset {s : State} {rest : List Input} (move : s.env = .reset :: rest) :
    step s = .next (resetEngine { s with env := rest }) := step_takes s .reset rest move (.inl rfl)

/-- After reset no pin is MISO, so a look at any valid pin sees the level that was driven on it (R191; log 21). -/
theorem inspectPin_resetEngine (p : Pin) (draw : Level) (s : State) (valid : s.build.isValid p = true) :
    inspectPin p draw (resetEngine s) = (driven p s).getD (Config.powerUpLevel p.toNat) :=
  inspectPin_driven p draw (resetEngine s) rfl valid fun ctx => by cases ctx

/-- Settles O52: reset writes the engine's registers only. -/
theorem resetTouchesNoPinAndNoBuffer : Obligations.ResetTouchesNoPinAndNoBuffer := fun _ _ move =>
  ⟨_, step_reset move, rfl, rfl, rfl, rfl, rfl, rfl, rfl, rfl, rfl, rfl, rfl⟩

/-- Settles O47: what a look sees after reset is the level driven before it. -/
theorem resetLeavesEveryPinAtItsDrivenLevel : Obligations.ResetLeavesEveryPinAtItsDrivenLevel := by
  intro p l draw s rest move _ valid last
  have before : driven p { s with env := rest } = some l := last
  have seen := inspectPin_resetEngine p draw { s with env := rest } valid
  exact ⟨_, step_reset move, by rw [seen, before, Option.getD_some]⟩

end Sys2Proof.Machine

/-! ## The events of a command, counted (R203) -/

namespace Sys2Proof.Machine

/-- Every event is of exactly one of the four kinds (R10). -/
theorem eventCounts_sum (es : List Event) : (eventCounts es).sum = es.length := by
  induction es with
  | nil => rfl
  | cons e es ih =>
    have one_more : (eventCounts (e :: es)).sum = (eventCounts es).sum + 1 := by
      cases e <;> simp [eventCounts, List.countP_cons, isPinWrite, isPinRead, isTxRead, isRxWrite] <;> omega
    rw [one_more, ih, List.length_cons]

/-! ### What a byte and a frame hold of a kind of event -/

/-- How many events of a kind one bit cycle, one load and one store hold, whatever the levels, bytes and indices are. -/
structure CountsOf (c : PinConfig) (kind : Event → Bool) (bit load store : Nat) : Prop where
  bit : ∀ b l, (bitEvents c b l).countP kind = bit
  load : ∀ i v, [Event.txRead i v].countP kind = load
  store : ∀ i v, [Event.rxWrite i v].countP kind = store

section
variable {c : PinConfig} {kind : Event → Bool} {bit load store : Nat}

/-- A byte holds eight times what a bit cycle holds (R130, R132). -/
theorem CountsOf.byte (h : CountsOf c kind bit load store) (v : Byte) {samples : List Level} (hl : samples.length = 8) :
    (byteEvents c v samples).countP kind = 8 * bit := by
  rw [byteEvents, List.countP_flatten, ← List.map_uncurry_zip_eq_zipWith, List.map_map,
    List.sum_eq_card_nsmul _ bit (by simp [h.bit])]
  simp [bitsMsbFirst, hl]

/-- A frame holds for each of its bytes a load, eight bit cycles and a store (R140, R143). -/
theorem CountsOf.frame (h : CountsOf c kind bit load store) (i : Len) (frames : List (Byte × List Level))
    (hframes : ∀ f ∈ frames, f.2.length = 8) :
    (frameEvents c i frames).countP kind = frames.length * (load + 8 * bit + store) := by
  induction frames generalizing i with
  | nil => rw [List.length_nil, Nat.zero_mul]; rfl
  | cons f frames ih =>
    obtain ⟨v, samples⟩ := f
    obtain ⟨hl, hothers⟩ := List.forall_mem_cons.1 hframes
    have parts : frameEvents c i ((v, samples) :: frames) =
        [.txRead i v] ++ byteEvents c v samples ++ [.rxWrite i (assembleMsbFirst samples)] ++
          frameEvents c (i + 1) frames := by
      simp [frameEvents]
    simp only [parts, List.countP_append, h.load, h.byte v hl, h.store, ih (i + 1) hothers, List.length_cons]
    ring

end

section
variable (c : PinConfig)

theorem countsOf_pinWrite : CountsOf c isPinWrite 3 0 0 := ⟨fun _ _ => rfl, fun _ _ => rfl, fun _ _ => rfl⟩

theorem countsOf_pinRead : CountsOf c isPinRead 1 0 0 := ⟨fun _ _ => rfl, fun _ _ => rfl, fun _ _ => rfl⟩

theorem countsOf_txRead : CountsOf c isTxRead 0 1 0 := ⟨fun _ _ => rfl, fun _ _ => rfl, fun _ _ => rfl⟩

theorem countsOf_rxWrite : CountsOf c isRxWrite 0 0 1 := ⟨fun _ _ => rfl, fun _ _ => rfl, fun _ _ => rfl⟩

/-- Where MOSI is not SCK a bit cycle holds one rising edge (R112, R113). -/
theorem countsOf_rise (ne : c.mosi ≠ c.sck) : CountsOf c (· == .pinWrite c.sck true) 1 0 0 :=
  ⟨fun b l => by simp [bitEvents, ne], fun _ _ => rfl, fun _ _ => rfl⟩

/-- What R203 counts in a byte: 24 pin writes and 8 pin reads. -/
theorem eventCounts_byteEvents (v : Byte) {samples : List Level} (hl : samples.length = 8) :
    eventCounts (byteEvents c v samples) = [24, 8, 0, 0] := by
  rw [eventCounts, (countsOf_pinWrite c).byte v hl, (countsOf_pinRead c).byte v hl, (countsOf_txRead c).byte v hl,
    (countsOf_rxWrite c).byte v hl]

/-- A byte has eight rising edges, where MOSI is not SCK (R130). -/
theorem countRises_byteEvents (ne : c.mosi ≠ c.sck) (v : Byte) {samples : List Level} (hl : samples.length = 8) :
    countEvent (.pinWrite c.sck true) (byteEvents c v samples) = 8 := (countsOf_rise c ne).byte v hl

variable (i : Len) {frames : List (Byte × List Level)} (each : ∀ f ∈ frames, f.2.length = 8)
include each

/-- What R203 counts in the bytes of a frame: for each 24 pin writes, 8 pin reads, a buffer read and a buffer write. -/
theorem eventCounts_frameEvents :
    eventCounts (frameEvents c i frames) = [24 * frames.length, 8 * frames.length, frames.length, frames.length] := by
  simp only [eventCounts, (countsOf_pinWrite c).frame i frames each, (countsOf_pinRead c).frame i frames each,
    (countsOf_txRead c).frame i frames each, (countsOf_rxWrite c).frame i frames each]
  ring_nf

/-- The bytes of a frame have eight rising edges each, where MOSI is not SCK (R140). -/
theorem countRises_frameEvents (ne : c.mosi ≠ c.sck) :
    countEvent (.pinWrite c.sck true) (frameEvents c i frames) = 8 * frames.length :=
  ((countsOf_rise c ne).frame i frames each).trans (Nat.mul_comm _ _)

end

/-! ### What a command's events hold -/

/-- The pin writes, pin reads, buffer reads and buffer writes of a command that runs (R203). -/
def countsOfCommand : Instr → List Nat
  | .init _ _ _ _ => [3, 0, 0, 0]
  | .txbit _ => [3, 0, 0, 0]
  | .rxbit => [2, 1, 0, 0]
  | .xfer _ => [24, 8, 0, 0]
  | .trans n => [2 + 24 * n.toNat, 8 * n.toNat, n.toNat, n.toNat]

/-- The rising edges of a command that runs (R113). -/
def risesOfCommand : Instr → Nat
  | .init _ _ _ _ => 0
  | .txbit _ => 1
  | .rxbit => 1
  | .xfer _ => 8
  | .trans n => 8 * n.toNat

/-- One event a step: R203 counts as many events as steps. -/
theorem countsOfCommand_sum (i : Instr) : (countsOfCommand i).sum = stepsAfterAcceptance i := by
  cases i with
  | trans n => simp only [countsOfCommand, stepsAfterAcceptance, List.sum_cons, List.sum_nil]; omega
  | _ => rfl

/-- What R203 counts in the events of a command and, with distinct pins, its rising edges. -/
structure Counted (i : Instr) (s : State) (es : List Event) : Prop where
  counts : eventCounts es = countsOfCommand i
  rises : cfgDistinct s = true → countEvent (.pinWrite s.cfg.sck true) es = risesOfCommand i

section
variable (s : State)

/-- The events of INIT: three writes, none of them a rising edge (R100). -/
theorem runInit_counted (mosi miso sck ss : Pin) :
    ∃ es, (runInit s).trace = s.trace ++ es ∧ Counted (.init mosi miso sck ss) s es := by
  refine ⟨_, runInit_trace s, rfl, fun hd => ?_⟩
  obtain ⟨-, -, ss_sck⟩ := cfgDistinct_ne hd
  simp [countEvent, risesOfCommand, ss_sck]

/-- The events of TXBIT: three writes, one of them the rising edge (R110). -/
theorem runTxbit_counted (bit : Level) : ∃ es, (runTxbit bit s).trace = s.trace ++ es ∧ Counted (.txbit bit) s es := by
  refine ⟨_, runTxbit_trace s bit, rfl, fun hd => ?_⟩
  obtain ⟨sck_mosi, -, -⟩ := cfgDistinct_ne hd
  simp [countEvent, risesOfCommand, sck_mosi.symm]

/-- The events of RXBIT: the rising edge, the sample and the falling edge (R111). -/
theorem runRxbit_counted : ∃ es, (runRxbit s).trace = s.trace ++ es ∧ Counted .rxbit s es :=
  ⟨_, runRxbit_trace s, rfl, fun _ => by simp [countEvent, risesOfCommand]⟩

/-- The events of XFER: those of one byte (R130). -/
theorem runXfer_counted (v : Byte) : ∃ es, (runXfer s).trace = s.trace ++ es ∧ Counted (.xfer v) s es := by
  obtain ⟨samples, hl, trace⟩ := runXfer_trace s
  refine ⟨_, trace, eventCounts_byteEvents s.cfg s.txb hl, fun hd => ?_⟩
  obtain ⟨sck_mosi, -, -⟩ := cfgDistinct_ne hd
  exact countRises_byteEvents s.cfg sck_mosi.symm s.txb hl

/-- The bytes of a frame between its two SS events hold what R203 counts for a TRANS (R140). -/
theorem counted_trans (n i : Len) {frames : List (Byte × List Level)} (hl : frames.length = n.toNat)
    (each : ∀ f ∈ frames, f.2.length = 8) :
    Counted (.trans n) s (.pinWrite s.cfg.ss false :: (frameEvents s.cfg i frames ++ [.pinWrite s.cfg.ss true])) where
  counts := by
    have bytes := eventCounts_frameEvents s.cfg i each
    simp only [eventCounts, List.cons.injEq, hl] at bytes
    obtain ⟨writes, reads, loads, stores, -⟩ := bytes
    simp [eventCounts, List.countP_cons, countsOfCommand, Nat.add_comm 2, writes, reads, loads, stores, isPinWrite,
      isPinRead, isTxRead, isRxWrite]
  rises hd := by
    obtain ⟨sck_mosi, -, ss_sck⟩ := cfgDistinct_ne hd
    have bytes := countRises_frameEvents s.cfg i each sck_mosi.symm
    rw [countEvent, hl] at bytes
    simp [countEvent, risesOfCommand, bytes, ss_sck]

/-- The events of TRANS from index 0: a frame of `n` bytes of eight samples each (R140). -/
theorem runTrans_counted (n : Len) (hi : s.idx = 0) :
    ∃ es, (runTrans n s).trace = s.trace ++ es ∧ Counted (.trans n) s es := by
  obtain ⟨samples, hl, heach, trace, -⟩ := runTrans_samples n s hi
  refine ⟨_, trace, counted_trans s n 0 ?_ fun f hf => heach f.2 (List.of_mem_zip hf).2⟩
  simp [sentBytes, hl]

end

/-- The events of a command that starts hold what R203 counts. -/
theorem eventsOf_counted (i : Instr) (s : State) (hs : s.seq = .idle) (starts : (accept i s).seq ≠ .idle) :
    ∃ es, (eventsOf i (accept i s)).trace = s.trace ++ es ∧ Counted i (accept i s) es := by
  obtain ⟨-, -, -, -, -, -, -, accepted⟩ := accept_outside i s
  rw [← accepted]
  cases i with
  | init mosi miso sck ss => exact runInit_counted _ mosi miso sck ss
  | txbit bit => exact runTxbit_counted _ bit
  | rxbit => exact runRxbit_counted _
  | xfer v => exact runXfer_counted _ v
  | trans n =>
    have ctx := ctxValid_of_starts _ s rfl starts
    have fits := length_le_max_of_starts n s hs ctx starts
    exact runTrans_counted _ n (by rw [accept, acceptTrans_fits n s ctx fits])

/-- Settles O44: the command ends with the events of its meaning, performed on the accepted state in its Configuration. -/
theorem commandsMakeTheCountedEvents : Obligations.CommandsMakeTheCountedEvents := by
  intro i s t hs hp starts h
  obtain ⟨es, trace, counted⟩ := eventsOf_counted i s hs starts
  rw [exec_wholeCommand, wholeCommand_runs _ _ s hs starts hp] at h
  cases h
  refine ⟨es, trace, counted.counts, fun hd => ?_⟩
  rw [cfgDistinct, eventsOf_cfg] at hd
  rw [eventsOf_cfg]
  exact counted.rises hd

end Sys2Proof.Machine

/-! ## A command that starts is busy for as many steps as it has events (R148, R203, R204) -/

namespace Sys2Proof.Machine

section
variable {s t : State}

/-- An idle engine stays as it is for any number of steps of the sequencer (R157 item 3). -/
theorem ticks_idle (k : Nat) (hs : s.seq = .idle) : ticks k s = .next s := by
  induction k with
  | zero => rfl
  | succ k ih => rw [ticks_succ k s s (tick_idle s hs), ih]

/-- A run of the sequencer is its first steps and the others. -/
theorem ticks_split (j k : Nat) (h : ticks (j + k) s = .next t) : ∃ u, ticks j s = .next u ∧ ticks k u = .next t := by
  induction j generalizing s with
  | zero => exact ⟨s, rfl, by rwa [Nat.zero_add] at h⟩
  | succ j ih =>
    rw [Nat.succ_add] at h
    cases e : tick s with
    | next v =>
      rw [ticks_succ (j + k) s v e] at h
      rw [ticks_succ j s v e]
      exact ih h
    | fault r => simp [ticks, e] at h
    | refused r => simp [ticks, e] at h

/-- A step of the sequencer adds at most one event (R157 item 4). -/
theorem tick_trace_length_le (acks : s.pinAck = true) (h : tick s = .next t) :
    t.trace.length ≤ s.trace.length + 1 := by
  by_cases hs : s.seq = .idle
  · cases (tick_idle s hs).symm.trans h
    omega
  · obtain ⟨e, trace⟩ := tick_adds_event h hs acks
    rw [trace, List.length_append, List.length_singleton]

/-- Steps of the sequencer add at most one event each. -/
theorem ticks_trace_length_le (k : Nat) (acks : s.pinAck = true) (h : ticks k s = .next t) :
    t.trace.length ≤ s.trace.length + k := by
  induction k generalizing s with
  | zero => cases h; omega
  | succ k ih =>
    rw [Nat.add_comm] at h
    obtain ⟨u, first, others⟩ := ticks_split 1 k h
    rw [ticks_one] at first
    obtain ⟨-, -, -, -, -, same⟩ := tick_outside s u first
    have one := tick_trace_length_le acks first
    have rest := ih (same.trans acks) others
    omega

/-- A run of the sequencer that adds an event at every step is busy before each: an idle engine would add no more. -/
theorem ticks_busy_of_trace_length (n : Nat) (acks : s.pinAck = true) (h : ticks n s = .next t)
    (events : t.trace.length = s.trace.length + n) (k : Nat) (hk : k < n) :
    ∃ u, ticks k s = .next u ∧ u.seq ≠ .idle := by
  obtain ⟨u, before, after⟩ := ticks_split k (n - k) (by rwa [Nat.add_sub_cancel' hk.le])
  refine ⟨u, before, fun idle => ?_⟩
  cases (ticks_idle (n - k) idle).symm.trans after
  have few := ticks_trace_length_le k acks before
  omega

end

/-- Every command's events end in a response posted by an idle engine (R83, R148). -/
theorem eventsOf_answers (i : Instr) (s : State) : (eventsOf i s).seq = .idle ∧ (eventsOf i s).respValid = true := by
  cases i <;> exact ⟨rfl, rfl⟩

/-- Settles O43: R203 counts as many steps as events, and an engine that goes idle before the last would have fewer. -/
theorem startedCommandEndsAtItsLastStep : Obligations.StartedCommandEndsAtItsLastStep := by
  intro i s hs hp starts
  have ends := ticks_accept i s hs hp starts
  obtain ⟨-, -, acks, -, -, -, -, accepted⟩ := accept_outside i s
  obtain ⟨es, trace, counted⟩ := eventsOf_counted i s hs starts
  have events : es.length = stepsAfterAcceptance i := by
    rw [← eventCounts_sum, counted.counts, countsOfCommand_sum]
  refine ⟨ticks_busy_of_trace_length _ (acks.trans hp) ends ?_, _, ends, eventsOf_answers i _⟩
  rw [trace, accepted, List.length_append, events]

end Sys2Proof.Machine
